-- ==== Sys2Proof/Word.lean ====
section
/-! DEFINITION. The word types of the NWP protocol engine and the names of its numbered things.
Every value of the spec is unsigned (00_scope.md rule R14); a word is a bit vector where the spec treats it as bits. -/

namespace Sys2Proof

/-- One byte of host memory or of a byte stream. -/
abbrev Byte := BitVec 8

/-- A protocol word, a register, or a host address (ADDR_W = 32, 00_scope.md rule R12). -/
abbrev Word := BitVec 32

/-- An opcode, a length or a capacity: the 16-bit fields of 10_state.md rules R31 and R37. -/
abbrev Half := BitVec 16

/-- The index of a requester port: the 3-bit owner field of 10_state.md rule R37 allows ports 0 to 7.
Which of them exist is NUM_PORTS (00_scope.md rule R12). -/
abbrev Port := Fin 8

/-- The index of a slot of the Pending-Request Table: CAP = 2 (10_state.md rule R37). -/
abbrev SlotIx := Fin 2

/-- The ports in index order. -/
def Port.all : List Port := [0, 1, 2, 3, 4, 5, 6, 7]

/-- The slots in index order (43_pending_table.md rule R281 takes the least free index). -/
def SlotIx.all : List SlotIx := [0, 1]

end Sys2Proof
end

