-- ==== Sys2Proof/Config.lean ====
section
/-! DEFINITION. What an implementation fixes, and what the spec leaves free.
The open parameters of 00_scope.md rule R12 form one record, `Params`: the machine's state carries it, so that a
statement about every state is a statement about every implementation. The free values (the inbound stream, the
interleaving and the draws) are opaque constants: nothing in Lean can evaluate them. -/

namespace Sys2Proof

/-- The widths of a host access (10_state.md rule R58 admits only the 32-bit one to the register range). -/
inductive Width where
  | byte
  | half
  | word
deriving DecidableEq, Repr, Inhabited

/-- How many bytes an access of a width touches. -/
def Width.bytes : Width → Nat
  | .byte => 1
  | .half => 2
  | .word => 4

/-- A move of the environment (20_memory.md rule R89). Its answers to transport reads are the inbound stream instead. -/
inductive EnvMove where
  | irq
  | setOobAck
  | setHostAck
  | setWakeConfig (v : BitVec 16)
deriving DecidableEq, Repr, Inhabited

/-- A move of host software: an access at an absolute host address. Inside the register range it is a register
access (10_state.md rules R58 and R62); outside it is the host's own access to host memory (rule R30). -/
inductive HostMove where
  | read (addr : Word) (w : Width)
  | write (addr : Word) (w : Width) (v : Word)
deriving DecidableEq, Repr, Inhabited

/-- Who takes the next step of the interleaving (20_memory.md rule R95). -/
inductive Move where
  | port (p : Port)
  | rx
  | sequencer
  | host (h : HostMove)
  | env (e : EnvMove)
deriving DecidableEq, Repr, Inhabited

/-- The open parameters of 00_scope.md rule R12. HOSTMEM_OK is a union of half-open ranges [lo, hi).
WC_W-bit values are held zero-extended in 16 bits. -/
structure Params where
  numPorts : Nat
  n2hSync : Word
  scratchBytes : Nat
  initCompleteOpcode : Half
  wcW : Nat
  quiescedValue : BitVec 16
  /-- SETTLE_TIME: no rule reads it (46_power_sequencer.md rule R417). -/
  settleTime : Nat
  base : Word
  hostmemOk : List (Nat × Nat)
deriving DecidableEq, Repr

/-- The constraints that 00_scope.md rule R12 and 20_memory.md rule R81 put on the parameters. -/
def Params.wf (c : Params) : Bool :=
  decide (1 ≤ c.numPorts) && decide (c.numPorts ≤ 8)
    && c.n2hSync.extractLsb' 0 3 == 0#3
    && decide (4 ≤ c.scratchBytes)
    && decide (1 ≤ c.wcW) && decide (c.wcW ≤ 16)
    && decide (c.quiescedValue.toNat < 2 ^ c.wcW)
    && decide (c.base.toNat % 0x400 = 0)
    && c.hostmemOk.all fun r => decide (r.2 ≤ c.base.toNat) || decide (c.base.toNat + 0x400 ≤ r.1)

/-- The test configuration TC of 00_scope.md rule R13: the spec's own choice of numbers for its vectors, but for
SETTLE_TIME, to which neither rule R13 nor 95_test_vectors.md gives a value in TC (rule R12 leaves it open). Its 0 here
is the model's own: DESIGN CHOICE, log entry 1; no rule reads it. -/
def Params.tc : Params where
  numPorts := 2
  n2hSync := 0x4B3C2D18#32
  scratchBytes := 64
  initCompleteOpcode := 0x0008#16
  wcW := 8
  quiescedValue := 0x01#16
  settleTime := 0
  base := 0x40000000#32
  hostmemOk := [(0x20000000, 0x20010000)]

namespace Config

/-- Byte number `i` of the inbound stream, where no listed byte answers a read: the oracle of 20_memory.md rule R86.
A free value. -/
opaque inboundByte : Nat → Byte

/-- Move number `i` of the interleaving, where no listed move says who steps: 93_implementation_defined.md I15.
A free value. -/
opaque interleaving : Nat → Move

/-- Draw number `i`, where no listed draw answers a `draw v from S`: 93_implementation_defined.md I1 and
46_power_sequencer.md rule R402. A free value. -/
opaque draw : Nat → Nat

/-- Whether the host stores the low byte of a 16-bit or 32-bit value first in its own memory: 20_memory.md rule R94
says that the host's byte order does not reach the engine and does not name it. A free value. -/
opaque hostLittleEndian : Bool

end Config

end Sys2Proof
end

