-- ==== Sys2Proof/Syntax.lean ====
section
/-! DEFINITION. The operations of the engine: one constructor per row of spec/opcode_table.json.
Four rows are CTRL request words, four are wire words, nine are internal operations and one is an event
(30_encoding.md rules R110 and R126). -/

namespace Sys2Proof

/-- The entry that REGISTER inserts (43_pending_table.md rule R281, operand e). -/
structure Entry where
  expectedOpcode : Half
  dbase : Word
  dcap : Half
  ppresent : Bool
  pbase : Word
  pcap : Half
deriving DecidableEq, Repr

/-- The RESULT of a completed operation (60_exceptions.md rule R501); codes 0x2 to 0xF are never produced. -/
inductive Result where
  | ok
  | illegalOp
deriving DecidableEq, Repr

/-- The operations, one per row of the opcode table, in the table's order. An operand that a rule takes from the
moving agent's own registers (the in-flight record, rx_len, rx_slot) is not repeated here. -/
inductive Instr where
  /-- SEND_COMMAND, 44_dispatcher.md rule R321; EXP and CMD_OPCODE are the free fields of its CTRL word (R112). -/
  | sendCommand (exp : Bool) (cmdOpcode : Half)
  /-- POWER_ON, 46_power_sequencer.md rule R400. -/
  | powerOn
  /-- POWER_OFF, 46_power_sequencer.md rule R401. -/
  | powerOff
  /-- ILLEGAL, 44_dispatcher.md rule R324: a CTRL word that 30_encoding.md rule R114 names illegal. -/
  | illegal (word : Word)
  /-- H2N_SYNC_WORD, 30_encoding.md rule R116. -/
  | h2nSyncWord
  /-- H2N_CNYS_WORD, 30_encoding.md rule R116. -/
  | h2nCnysWord
  /-- N2H_SYNC_WORD, 30_encoding.md rule R118: the SEQ-SET flag and the sequence field. -/
  | n2hSyncWord (seqSet : Bool) (seq : BitVec 2)
  /-- FRAME_HEADER, 30_encoding.md rule R120. -/
  | frameHeader (opcode : Half) (length : Half)
  /-- LOCATE, 41_frame_sync.md rule R200. -/
  | locate
  /-- WRITE_COMMAND, 42_codec.md rule R240: the sending port; the frame comes from its in-flight record. -/
  | writeCommand (p : Port)
  /-- READ_RESPONSE_BODY, 42_codec.md rule R241: L is rx_len and s is rx_slot. -/
  | readResponseBody
  /-- DRAIN(n), 42_codec.md rule R243. -/
  | drain (n : Nat)
  /-- REGISTER(p, e), 43_pending_table.md rule R281. -/
  | register (p : Port) (e : Entry)
  /-- RESOLVE(op), 43_pending_table.md rule R282. -/
  | resolve (opcode : Half)
  /-- REMOVE(i), 43_pending_table.md rule R283. -/
  | remove (i : SlotIx)
  /-- SUBMIT(p, v), 44_dispatcher.md rule R320. -/
  | submit (p : Port) (v : Word)
  /-- COMPLETE(p, r), 44_dispatcher.md rule R323. -/
  | complete (p : Port) (r : Result)
  /-- ON_NWP_IRQ, 45_receive_handler.md rule R360. -/
  | onNwpIrq
deriving DecidableEq, Repr

end Sys2Proof
end

