-- ==== Sys2Proof/Decode.lean ====
section
/-! DEFINITION. From words to operations and back (30_encoding.md), with the byte order helpers they rest on.
A 32-bit word alone does not say which format it has (rule R110): a CTRL request word, a host-to-NWP word, an
NWP-to-host sync word and a frame header share their values. The decoder is told the format by the place the word
came from. The internal operations and the event have no encoding (rule R126). -/

namespace Sys2Proof

/-! ## Byte order (00_scope.md rule R17) -/

/-- `le16` of 00_scope.md rule R17. -/
def le16 (b0 b1 : Byte) : Half := b1 ++ b0

/-- `le32` of 00_scope.md rule R17. -/
def le32 (b0 b1 b2 b3 : Byte) : Word := b3 ++ b2 ++ b1 ++ b0

/-- `bytes16` of 00_scope.md rule R17. -/
def bytes16 (v : Half) : List Byte := [v.extractLsb' 0 8, v.extractLsb' 8 8]

/-- `bytes32` of 00_scope.md rule R17. -/
def bytes32 (v : Word) : List Byte :=
  [v.extractLsb' 0 8, v.extractLsb' 8 8, v.extractLsb' 16 8, v.extractLsb' 24 8]

/-! ## The CTRL request word -/

/-- OP, bits [3:0] (30_encoding.md rule R111). -/
def ctrlOp (w : Word) : BitVec 4 := w.extractLsb' 0 4

/-- EXP, bit 4 (30_encoding.md rule R111). -/
def ctrlExp (w : Word) : Bool := w.getLsbD 4

/-- RSV, bits [15:5] (30_encoding.md rule R111). -/
def ctrlRsv (w : Word) : BitVec 11 := w.extractLsb' 5 11

/-- CMD_OPCODE, bits [31:16] (30_encoding.md rule R111). -/
def ctrlCmdOpcode (w : Word) : Half := w.extractLsb' 16 16

/-- A CTRL word put together from its fields (30_encoding.md rule R111). -/
def ctrlWord (cmdOpcode : Half) (rsv : BitVec 11) (exp : Bool) (op : BitVec 4) : Word :=
  cmdOpcode ++ rsv ++ BitVec.ofBool exp ++ op

/-- `Illegal(v)` of 30_encoding.md rule R114. -/
def isIllegal (w : Word) : Bool :=
  if ctrlOp w = 1#4 then ctrlRsv w != 0#11
  else if ctrlOp w = 2#4 ∨ ctrlOp w = 3#4 then w.extractLsb' 4 28 != 0#28
  else true

/-- The operation a CTRL word selects (30_encoding.md rules R111 to R114): every word selects one, ILLEGAL where no
other does. -/
def decodeCtrlWord (w : Word) : Instr :=
  if isIllegal w then .illegal w
  else if ctrlOp w = 1#4 then .sendCommand (ctrlExp w) (ctrlCmdOpcode w)
  else if ctrlOp w = 2#4 then .powerOn
  else .powerOff

/-! ## Wire words -/

/-- A sync pattern record: four fields in eight bytes (30_encoding.md rule R115). -/
structure SyncPattern where
  /-- Record bytes 0-3, never transmitted (rule R116). -/
  long : Word
  /-- Record bytes 4-5. -/
  short : Half
  /-- Record byte 6. -/
  byte1 : Byte
  /-- Record byte 7. -/
  byte2 : Byte
deriving DecidableEq, Repr

/-- The H2N_SYNC record, "host about to write" (30_encoding.md rule R115). -/
def h2nSyncPattern : SyncPattern where
  long := 0xBBDDEEFF#32
  short := 0x4321#16
  byte1 := 0x34#8
  byte2 := 0x12#8

/-- The H2N_CNYS record, "host about to read" (30_encoding.md rule R115). -/
def h2nCnysPattern : SyncPattern where
  long := 0xBBDDEEFF#32
  short := 0x8765#16
  byte1 := 0x78#8
  byte2 := 0x56#8

/-- The eight bytes of a record in their places (30_encoding.md rule R115), each field little-endian (00_scope.md rule
R17). -/
def SyncPattern.record (x : SyncPattern) : List Byte := bytes32 x.long ++ bytes16 x.short ++ [x.byte1, x.byte2]

/-- The word that is transmitted for a record, as its le32 value: Short, then Byte1, then Byte2 (30_encoding.md rule
R116, 90_conflicts.md C2). -/
def SyncPattern.wireValue (x : SyncPattern) : Word := x.byte2 ++ x.byte1 ++ x.short

/-- H2N_SYNC_WORD as its le32 value, 0x12344321 (30_encoding.md rule R116). -/
def h2nSyncValue : Word := h2nSyncPattern.wireValue

/-- H2N_CNYS_WORD as its le32 value, 0x56788765 (30_encoding.md rule R116). -/
def h2nCnysValue : Word := h2nCnysPattern.wireValue

/-- The two forms of an N2H sync word (30_encoding.md rule R118): the tag is the parameter's, bit 2 is SEQ-SET and bits
[1:0] are SEQ. -/
def n2hSyncValue (c : Params) (seqSet : Bool) (seq : BitVec 2) : Word :=
  c.n2hSync.extractLsb' 3 29 ++ BitVec.ofBool seqSet ++ seq

/-- A frame header as its le32 value, `opcode | (length << 16)` (30_encoding.md rule R120). -/
def headerValue (opcode length : Half) : Word := length ++ opcode

/-- The operation a host-to-NWP sync word stands for, where it is one of the two (30_encoding.md rule R116). -/
def decodeH2nWord (w : Word) : Option Instr :=
  if w = h2nSyncValue then some .h2nSyncWord
  else if w = h2nCnysValue then some .h2nCnysWord
  else none

/-- The N2H sync word a candidate is, where it is one (30_encoding.md rule R118): the parameter's tag, and SEQ = 0
where SEQ-SET = 0. Whether LOCATE accepts it is 41_frame_sync.md rule R201's question, not the decoder's. -/
def decodeN2hWord (c : Params) (w : Word) : Option Instr :=
  if w.extractLsb' 3 29 = c.n2hSync.extractLsb' 3 29 ∧ (w.getLsbD 2 = true ∨ w.extractLsb' 0 2 = 0#2) then
    some (.n2hSyncWord (w.getLsbD 2) (w.extractLsb' 0 2))
  else none

/-- The header a 4-byte word is (30_encoding.md rule R120): no value is reserved (rule R124). -/
def decodeHeaderWord (w : Word) : Instr :=
  .frameHeader (w.extractLsb' 0 16) (w.extractLsb' 16 16)

/-! ## The decoder -/

/-- Where a word came from, which is what says its format (30_encoding.md rule R110). -/
inductive Format where
  /-- A host write to a port's CTRL register. -/
  | ctrl
  /-- A sync word on the outbound stream. -/
  | h2n
  /-- A sync word on the inbound stream. -/
  | n2h
  /-- The word after a sync word (outbound) or after word A (inbound). -/
  | header
deriving DecidableEq, Repr

/-- Why bytes are no operation of a format. -/
inductive DecodeError where
  /-- Fewer than four bytes: every format is four bytes long. -/
  | tooShort
  /-- A host-to-NWP word that is neither H2N_SYNC_WORD nor H2N_CNYS_WORD. -/
  | notAnH2nWord
  /-- An inbound word that has neither form of the N2H sync word. -/
  | notAnN2hSyncWord
deriving DecidableEq, Repr

/-- The operation of one word in a format. -/
def decodeWord (c : Params) (f : Format) (w : Word) : Except DecodeError Instr :=
  match f with
  | .ctrl => .ok (decodeCtrlWord w)
  | .h2n => match decodeH2nWord w with
    | some i => .ok i
    | none => .error .notAnH2nWord
  | .n2h => match decodeN2hWord c w with
    | some i => .ok i
    | none => .error .notAnN2hSyncWord
  | .header => .ok (decodeHeaderWord w)

/-- The decoder: the operation of the first four bytes in a format, with the bytes that follow them. -/
def decode (c : Params) (f : Format) (bytes : List Byte) : Except DecodeError (Instr × List Byte) :=
  match bytes with
  | b0 :: b1 :: b2 :: b3 :: rest =>
    match decodeWord c f (le32 b0 b1 b2 b3) with
    | .ok i => .ok (i, rest)
    | .error e => .error e
  | _ => .error .tooShort

/-! ## The encoder -/

/-- The format an operation's word has; none for the internal operations and the event (30_encoding.md rule R126). -/
def Instr.format (i : Instr) : Option Format :=
  match i with
  | .sendCommand _ _ => some .ctrl
  | .powerOn => some .ctrl
  | .powerOff => some .ctrl
  | .illegal _ => some .ctrl
  | .h2nSyncWord => some .h2n
  | .h2nCnysWord => some .h2n
  | .n2hSyncWord _ _ => some .n2h
  | .frameHeader _ _ => some .header
  | .locate => none
  | .writeCommand _ => none
  | .readResponseBody => none
  | .drain _ => none
  | .register _ _ => none
  | .resolve _ => none
  | .remove _ => none
  | .submit _ _ => none
  | .complete _ _ => none
  | .onNwpIrq => none

/-- The word of an operation that has one (opcode_table.json). -/
def encodeWord (c : Params) (i : Instr) : Option Word :=
  match i with
  | .sendCommand exp cmdOpcode => some (ctrlWord cmdOpcode 0#11 exp 1#4)
  | .powerOn => some 0x00000002#32
  | .powerOff => some 0x00000003#32
  | .illegal w => some w
  | .h2nSyncWord => some h2nSyncValue
  | .h2nCnysWord => some h2nCnysValue
  | .n2hSyncWord seqSet seq => some (n2hSyncValue c seqSet seq)
  | .frameHeader opcode length => some (headerValue opcode length)
  | .locate => none
  | .writeCommand _ => none
  | .readResponseBody => none
  | .drain _ => none
  | .register _ _ => none
  | .resolve _ => none
  | .remove _ => none
  | .submit _ _ => none
  | .complete _ _ => none
  | .onNwpIrq => none

/-- The bytes of an operation that has an encoding, in the order they stand on the wire or in a little-endian
register image (30_encoding.md rules R93, R116, R118 and R120). -/
def encode (c : Params) (i : Instr) : Option (List Byte) := (encodeWord c i).map bytes32

/-- The operation the table's words name: the table gives bits to CTRL request words only, so `w`'s low `nbits` bits,
with zeros above them, are read as the 32-bit value a host writes to CTRL. -/
def decodeTableWord (nbits w : Nat) : Option Instr :=
  match decode Params.tc .ctrl (bytes32 (BitVec.ofNat 32 (w % 2 ^ nbits))) with
  | .ok (i, _) => some i
  | .error _ => none

end Sys2Proof
end

