-- ==== Sys2Proof/Machine/State.lean ====
section
/-! DEFINITION. The state of the engine as plain data: every element of 10_state.md, host memory, the event history,
and the model's own fields (the parameters, the three tapes of free values and their counters, DRAIN's remaining count
and the control labels). Each field's docstring names the rule that gives it. -/

namespace Sys2Proof.Machine

/-! ## Ports -/

/-- One command segment of 10_state.md rule R31: SEGk_BASE, SEGk_LEN and SEGk_PRESENT. -/
structure Segment where
  base : Word
  len : Half
  present : Bool
deriving DecidableEq, Repr

/-- The fields of 10_state.md rule R31, as staging registers and as an in-flight record (rule R32). -/
structure Request where
  op : BitVec 4
  exp : Bool
  cmdOpcode : Half
  expOpcode : Half
  seg0 : Segment
  seg1 : Segment
  seg2 : Segment
  rdescBase : Word
  rdescCap : Half
  rpayBase : Word
  rpayCap : Half
  rpayPresent : Bool
deriving DecidableEq, Repr

/-- `phase[p]` of 10_state.md rule R33; codes 5 to 7 are never produced (rule R64). -/
inductive Phase where
  | idle
  | registering
  | writing
  | waiting
  | power
deriving DecidableEq, Repr

/-- The step label of a port in phase WRITING (10_state.md rule R36): W1 to W5 of 42_codec.md rule R240, and S4 of
44_dispatcher.md rule R321, where a port with EXP = 0 stands after its last write. -/
inductive WriteLabel where
  | w1
  | w2
  | w3
  | w4
  | w5
  | s4
deriving DecidableEq, Repr

/-- One requester port (10_state.md rules R31 to R35). -/
structure PortState where
  /-- The staging registers, rule R31. -/
  staging : Request
  /-- CTRL's RSV field, which rule R60 keeps as a read-write field and rule R31 does not copy into `req[p]`. -/
  rsv : BitVec 11
  /-- The in-flight record `req[p]`, rule R32. -/
  req : Request
  /-- `phase[p]`, rule R33. -/
  phase : Phase
  /-- The step label within phase WRITING, rule R36. -/
  wlabel : WriteLabel
  /-- `BUSY[p]`, rule R34. -/
  busy : Bool
  /-- `DONE[p]`, rule R34. -/
  done : Bool
  /-- `RESULT[p]`, rule R34. -/
  result : Result
  /-- `resp_done[p]`, rule R35. -/
  respDone : Bool
deriving DecidableEq, Repr

/-! ## The Pending-Request Table -/

/-- One slot of the Pending-Request Table (10_state.md rule R37). -/
structure Slot where
  valid : Bool
  entry : Entry
  owner : Port
deriving DecidableEq, Repr

/-! ## The RX engine -/

/-- The 8-byte window W of 10_state.md rule R40, `wi` being W[i]. -/
structure Window where
  w0 : Byte
  w1 : Byte
  w2 : Byte
  w3 : Byte
  w4 : Byte
  w5 : Byte
  w6 : Byte
  w7 : Byte
deriving DecidableEq, Repr

/-- `rx_state` of 10_state.md rule R44; code 3 is never produced (rule R64). -/
inductive RxPhase where
  | idle
  | readingHeader
  | copyingBody
deriving DecidableEq, Repr

/-- The RX engine's control position (10_state.md rule R36): the label of its next step in 45_receive_handler.md rule
R360, 41_frame_sync.md rule R200 and 42_codec.md rules R241 and R243. `locOk`, `h6` and `b1` are passed within the step
that reaches them, because what they do are internal updates (20_memory.md rule R95). -/
inductive RxLabel where
  | h0
  | l1
  | l2
  | l4
  | l8
  | l9
  | l10
  | l11
  | l12
  /-- LOCATE has returned Ok(W). -/
  | locOk
  | h2
  /-- READ_RESPONSE_BODY begins. -/
  | b1
  | b2
  | b3
  | d1
  | h4
  | h5
  /-- LOCATE has returned SyncTimeout. -/
  | h6
deriving DecidableEq, Repr

/-- The RX engine's datapath (10_state.md rules R40 to R45). -/
structure RxState where
  /-- The control position, rule R36. -/
  label : RxLabel
  /-- `rx_state`, rule R44. -/
  phase : RxPhase
  /-- The window W, rule R40. -/
  window : Window
  /-- The attempt counter `a`, rule R41. -/
  a : Nat
  /-- The misalignment `m`, rule R41. -/
  m : Fin 4
  /-- `rx_opcode`, rule R42. -/
  opcode : Half
  /-- `rx_len`, rule R42. -/
  len : Half
  /-- `rx_slot`, rule R42; none is NONE. -/
  slot : Option SlotIx
  /-- `rx_rem`, rule R42. -/
  rem : Nat
  /-- DRAIN's `n` between two of its steps (42_codec.md rule R243): the model's own field. -/
  drainLeft : Nat
  /-- The scratch buffer, rule R45. -/
  scratch : List Byte
deriving DecidableEq, Repr

/-! ## The Power Sequencer -/

/-- `pseq_state` of 10_state.md rule R50. -/
inductive PseqState where
  | off
  | poweringOn
  | on
  | poweringOff
deriving DecidableEq, Repr

/-- `pseq_step` of 10_state.md rule R51. -/
inductive PseqStep where
  | idle
  | pon1
  | pon2
  | pon3
  | pon4
  | pon5
  | pon6
  | pof1
  | pof2
  | pof3
  | pof4
  | pof5
  | pof6
  | pof7
  | pof8
deriving DecidableEq, Repr

/-- `REG_MODE` of 10_state.md rule R53. -/
inductive RegMode where
  | normal
  | lowPower
deriving DecidableEq, Repr

/-- The Power Sequencer and its signals (10_state.md rules R50 to R56). -/
structure PowerState where
  /-- `pseq_state`, rule R50. -/
  state : PseqState
  /-- `pseq_step`, rule R51. -/
  step : PseqStep
  /-- `pseq_port`, rule R51. -/
  port : Port
  /-- `STOP`, rule R52. -/
  stop : Bool
  /-- `REG_MODE`, rule R53. -/
  regMode : RegMode
  /-- `OOB_ACK`, rule R54. -/
  oobAck : Bool
  /-- `HOST_ACK`, rule R55. -/
  hostAck : Bool
  /-- `WAKE_CONFIG`, rule R56, zero-extended from WC_W bits. -/
  wakeConfig : BitVec 16
deriving DecidableEq, Repr

/-! ## The event history -/

/-- The agents that make transport calls and memory accesses (10_state.md rule R30). -/
inductive Agent where
  | port (p : Port)
  | rx
deriving DecidableEq, Repr

/-- The pulse outputs of 10_state.md rule R57. -/
inductive Pulse where
  | wakeReq
  | hostAckClr
  | oobTrigger
  | oobAckClr
deriving DecidableEq, Repr

/-- The levels whose changes are events (20_memory.md rule R88). -/
inductive Level where
  | stop
  | regMode
  | irqMask
deriving DecidableEq, Repr

/-- An event of the history (20_memory.md rule R88). -/
inductive Event where
  | tx (a : Agent) (bytes : List Byte)
  | rx (a : Agent) (bytes : List Byte)
  | memr (a : Agent) (addr : Nat) (bytes : List Byte)
  | memw (a : Agent) (addr : Nat) (bytes : List Byte)
  | pulse (p : Pulse)
  | level (l : Level) (value : Bool)
  | settle
  | env (e : EnvMove)
  | regRead (addr : Word) (value : Word)
  | regWrite (addr : Word) (value : Word)
deriving DecidableEq, Repr

/-! ## Host memory -/

/-- Host memory (20_memory.md rule R81): the bytes that differ from what an unlisted address reads as, in rising order
of their addresses. Its operations are in Machine/Memory.lean. -/
abbrev Memory := List Host.Cell

/-! ## The whole state -/

/-- The state of the machine. -/
structure State where
  /-- The implementation's parameters (00_scope.md rule R12); no step changes them. The model's own field. -/
  cfg : Params
  /-- The ports, 10_state.md rules R31 to R35; those at NUM_PORTS and above do not exist. -/
  ports : Vector PortState 8
  /-- The Pending-Request Table, 10_state.md rule R37. -/
  slots : Vector Slot 2
  /-- The RX engine, 10_state.md rules R40 to R45. -/
  rx : RxState
  /-- `tx_seq_num`, 10_state.md rule R43. -/
  txSeqNum : BitVec 8
  /-- `irq_mask`, 10_state.md rule R46. -/
  irqMask : Bool
  /-- `irq_pending`, 10_state.md rule R47. -/
  irqPending : Bool
  /-- `sync_timeout_sticky`, 10_state.md rule R48. -/
  syncTimeoutSticky : Bool
  /-- `CNT_SYNC_TIMEOUT`, 10_state.md rule R49. -/
  cntSyncTimeout : Word
  /-- `CNT_NO_MATCH`, 10_state.md rule R49. -/
  cntNoMatch : Word
  /-- `CNT_OVERFLOW`, 10_state.md rule R49. -/
  cntOverflow : Word
  /-- The sequencer and the power signals, 10_state.md rules R50 to R56. -/
  pwr : PowerState
  /-- Host memory, 20_memory.md rule R81. -/
  mem : Memory
  /-- The event history, 20_memory.md rule R88, oldest event first. -/
  history : List Event
  /-- The inbound stream's next bytes, 20_memory.md rule R86; past them the oracle is `Config.inboundByte`. The
  model's own field. -/
  inbound : List Byte
  /-- How many inbound bytes have been consumed. The model's own field. -/
  consumed : Nat
  /-- The next moves of the interleaving, 20_memory.md rule R95; past them it is `Config.interleaving`. The model's
  own field. -/
  moves : List Move
  /-- How many moves have been taken. The model's own field. -/
  moveCount : Nat
  /-- The next answers to `draw v from S`, 00_scope.md rule R19; past them they are `Config.draw`. The model's own
  field. -/
  draws : List Nat
  /-- How many draws have been made. The model's own field. -/
  drawCount : Nat
deriving DecidableEq, Repr

/-! ## Faults and refusals -/

/-- Why the machine stops with a fault. -/
inductive Fault where
  /-- A host access outside the register range that runs past the last 32-bit address, where 20_memory.md rule R81 has
  no byte. Raised by a step whose move is that access. Safe: the model stops where no effect is specified. -/
  | hostAddressOutsideMemory
deriving DecidableEq, Repr

/-- Why the model gives a run no meaning from here on (00_scope.md rule R21). -/
inductive Refusal where
  /-- An instruction that has no meaning yet. No arm of `exec` answers it. Safe. -/
  | notModelled (mnemonic : String)
  /-- WRITE_COMMAND with L above 0xFFFF: 42_codec.md rule R240 refuses it (93_implementation_defined.md I5). Raised by
  step W1, before any byte is sent. Safe. -/
  | lengthOverflow
  /-- An access to the register range that is not a 32-bit access at a 4-byte-aligned address: 10_state.md rule R58
  refuses it (93_implementation_defined.md I14). Raised by a step whose move is that access. Safe. -/
  | registerAccess
deriving DecidableEq, Repr

/-! ## Reset -/

/-- A segment with every field 0. -/
def Segment.zero : Segment where
  base := 0#32
  len := 0#16
  present := false

/-- Staging registers or an in-flight record with every field 0 (70_reset_and_hazards.md rule R600). -/
def Request.zero : Request where
  op := 0#4
  exp := false
  cmdOpcode := 0#16
  expOpcode := 0#16
  seg0 := Segment.zero
  seg1 := Segment.zero
  seg2 := Segment.zero
  rdescBase := 0#32
  rdescCap := 0#16
  rpayBase := 0#32
  rpayCap := 0#16
  rpayPresent := false

/-- A port after reset (70_reset_and_hazards.md rule R600). -/
def PortState.reset : PortState where
  staging := Request.zero
  rsv := 0#11
  req := Request.zero
  phase := .idle
  wlabel := .w1
  busy := false
  done := false
  result := .ok
  respDone := false

/-- An entry with every field 0. -/
def emptyEntry : Entry where
  expectedOpcode := 0#16
  dbase := 0#32
  dcap := 0#16
  ppresent := false
  pbase := 0#32
  pcap := 0#16

/-- A free slot: valid 0, all other fields 0 (10_state.md rule R37, 43_pending_table.md rule R283). -/
def Slot.free : Slot where
  valid := false
  entry := emptyEntry
  owner := 0

/-- Eight bytes of 0x00 (10_state.md rule R40). -/
def Window.zero : Window where
  w0 := 0#8
  w1 := 0#8
  w2 := 0#8
  w3 := 0#8
  w4 := 0#8
  w5 := 0#8
  w6 := 0#8
  w7 := 0#8

/-- The machine right after reset (70_reset_and_hazards.md rule R600), for an implementation's parameters and for what
reset does not touch: host memory, the inbound stream and WAKE_CONFIG. The scratch buffer starts as zeros (rule R601
lets it start at any value). -/
def State.resetWith (c : Params) (wakeConfig : BitVec 16) (mem : Memory) (inbound : List Byte) : State where
  cfg := c
  ports := Vector.replicate 8 PortState.reset
  slots := Vector.replicate 2 Slot.free
  rx :=
    { label := .h0
      phase := .idle
      window := Window.zero
      a := 0
      m := 0
      opcode := 0#16
      len := 0#16
      slot := none
      rem := 0
      drainLeft := 0
      scratch := List.replicate c.scratchBytes 0#8 }
  txSeqNum := 0#8
  irqMask := true
  irqPending := false
  syncTimeoutSticky := false
  cntSyncTimeout := 0#32
  cntNoMatch := 0#32
  cntOverflow := 0#32
  pwr :=
    { state := .off
      step := .idle
      port := 0
      stop := true
      regMode := .normal
      oobAck := false
      hostAck := false
      wakeConfig := wakeConfig }
  mem := mem
  history := []
  inbound := inbound
  consumed := 0
  moves := []
  moveCount := 0
  draws := []
  drawCount := 0

/-- The machine right after reset, in the test configuration TC (00_scope.md rule R13), with SETTLE_TIME, host memory and
WAKE_CONFIG at the values the assumption log names (entries 1, 5 and 6). -/
def State.reset : State := State.resetWith Params.tc 0#16 [] []

end Sys2Proof.Machine
end

