-- ==== Sys2Proof/Machine/Operands.lean ====
section
/-! DEFINITION. Operand assembly and operand forms (30_encoding.md rule R123): aligned lengths, the segments of a
command, the window's bytes, and the match predicate of 41_frame_sync.md rule R201. -/

namespace Sys2Proof.Machine

/-- CAP of 00_scope.md rule R11. -/
def cap : Nat := 2

/-- SYNC_SCAN_LIMIT of 00_scope.md rule R11. -/
def syncScanLimit : Nat := 40

/-- SEQ_MASK of 00_scope.md rule R12. -/
def seqMask : Word := 0xFFFFFFFB#32

/-- `align4` of 00_scope.md rule R18. -/
def align4 (n : Nat) : Nat := 4 * ((n + 3) / 4)

/-! ## Command segments (42_codec.md rules R240 and R250) -/

/-- `sent(k)`: the segment is present and its length is above zero. -/
def Segment.sent (g : Segment) : Bool := g.present && g.len != 0#16

/-- The number of bytes a segment adds to the frame, padding included. -/
def Segment.wireBytes (g : Segment) : Nat := if g.sent then align4 g.len.toNat else 0

/-- The zero bytes after a segment: align4(len) - len of them, 0 to 3. -/
def Segment.padding (g : Segment) : List Byte := List.replicate (align4 g.len.toNat - g.len.toNat) 0#8

/-- L of 42_codec.md rule R251: the sum of the padded lengths of the sent segments. -/
def Request.bodyLength (r : Request) : Nat := r.seg0.wireBytes + r.seg1.wireBytes + r.seg2.wireBytes

/-- The frame header WRITE_COMMAND sends: bytes16(CMD_OPCODE) ++ bytes16(L) (30_encoding.md rule R123). -/
def Request.headerBytes (r : Request) : List Byte :=
  bytes16 r.cmdOpcode ++ bytes16 (BitVec.ofNat 16 r.bodyLength)

/-- The entry SEND_COMMAND registers (44_dispatcher.md rule R321, step S1). -/
def Request.entry (r : Request) : Entry where
  expectedOpcode := r.expOpcode
  dbase := r.rdescBase
  dcap := r.rdescCap
  ppresent := r.rpayPresent
  pbase := r.rpayBase
  pcap := r.rpayCap

/-- The entry POWER_ON registers (46_power_sequencer.md rule R400, step PON5). -/
def initCompleteEntry (c : Params) : Entry :=
  { emptyEntry with expectedOpcode := c.initCompleteOpcode }

/-- The request word of an in-flight record; its RSV was 0, or SUBMIT would not have started it. -/
def Request.word (r : Request) : Word := ctrlWord r.cmdOpcode 0#11 r.exp r.op

/-! ## Response buffers (42_codec.md rule R241) -/

/-- `pc`: the payload capacity, 0 where the request has no payload buffer. -/
def payloadCap (e : Entry) : Nat := if e.ppresent then e.pcap.toNat else 0

/-- `remainder` of 42_codec.md rule R241: max(0, L - dcap). -/
def remainder (e : Entry) (len : Half) : Nat := len.toNat - e.dcap.toNat

/-- The number of payload bytes step B3 reads when `rem` bytes remain. -/
def payloadRead (e : Entry) (rem : Nat) : Nat := if rem < payloadCap e then align4 rem else payloadCap e

/-- `rx_rem` after step B3. -/
def afterPayload (e : Entry) (rem : Nat) : Nat := if rem < payloadCap e then 0 else rem - payloadCap e

/-! ## The window (41_frame_sync.md rule R200) -/

/-- Byte i of a read of known length. -/
def byteAt (bytes : List Byte) (i : Nat) : Byte := bytes.getD i 0#8

/-- The candidate le32(W[0..3]). -/
def Window.candidate (w : Window) : Word := le32 w.w0 w.w1 w.w2 w.w3

/-- `W[0..3] <- bytes`. -/
def Window.setLow (w : Window) (bytes : List Byte) : Window :=
  { w with w0 := byteAt bytes 0, w1 := byteAt bytes 1, w2 := byteAt bytes 2, w3 := byteAt bytes 3 }

/-- `W[4..7] <- bytes`. -/
def Window.setHigh (w : Window) (bytes : List Byte) : Window :=
  { w with w4 := byteAt bytes 0, w5 := byteAt bytes 1, w6 := byteAt bytes 2, w7 := byteAt bytes 3 }

/-- Step L5: every byte moves one place down and W[7] becomes 0x00. -/
def Window.shift (w : Window) : Window where
  w0 := w.w1
  w1 := w.w2
  w2 := w.w3
  w3 := w.w4
  w4 := w.w5
  w5 := w.w6
  w6 := w.w7
  w7 := 0#8

/-- Step L7's rebase: W[0..3] <- W[4..7]. -/
def Window.rebase (w : Window) : Window :=
  { w with w0 := w.w4, w1 := w.w5, w2 := w.w6, w3 := w.w7 }

/-- Step L8: `W[4-m .. 3] <- bytes` for m = 1, 2, 3. -/
def Window.fillTail (w : Window) (m : Fin 4) (bytes : List Byte) : Window :=
  match m with
  | 0 => w
  | 1 => { w with w3 := byteAt bytes 0 }
  | 2 => { w with w2 := byteAt bytes 0, w3 := byteAt bytes 1 }
  | 3 => { w with w1 := byteAt bytes 0, w2 := byteAt bytes 1, w3 := byteAt bytes 2 }

/-- The received opcode, le16(W[4], W[5]). -/
def Window.headerOpcode (w : Window) : Half := le16 w.w4 w.w5

/-- The received length, le16(W[6], W[7]). -/
def Window.headerLength (w : Window) : Half := le16 w.w6 w.w7

/-- f of 30_encoding.md rule R123: 0 if m = 0, else 4 - m. -/
def filler (m : Fin 4) : Nat := if m = 0 then 0 else 4 - m.val

/-! ## Host software's own byte order -/

/-- The low `w` bytes of a value in the order the host stores them (20_memory.md rule R94 does not name the order). -/
def hostBytes (w : Width) (v : Word) : List Byte :=
  match w with
  | .byte => [v.extractLsb' 0 8]
  | .half => if Config.hostLittleEndian then (bytes32 v).take 2 else ((bytes32 v).take 2).reverse
  | .word => if Config.hostLittleEndian then bytes32 v else (bytes32 v).reverse

end Sys2Proof.Machine
end

