-- ==== Sys2Proof/Machine/Flags.lean ====
section
/-! DEFINITION. The engine has no arithmetic flags (00_scope.md rule R22). This file holds its conditions and its status
words: the match predicate of LOCATE, the fullness of the table, and the codes and bit fields of the status registers
(10_state.md rules R33, R44, R50, R60 and R61; 60_exceptions.md rule R501). -/

namespace Sys2Proof.Machine

/-- `SyncMatch(w, seq)` of 41_frame_sync.md rule R201. -/
def syncMatch (c : Params) (w : Word) (seq : BitVec 8) : Bool :=
  if w.getLsbD 2 then (w &&& seqMask) == (c.n2hSync ||| (seq.extractLsb' 0 2).zeroExtend 32)
  else w == c.n2hSync

/-- The table's count (10_state.md rule R38), a function of the slots. -/
def State.ptCount (s : State) : Nat := (SlotIx.all.filter fun i => s.slots[i].valid).length

/-! ## Field codes -/

/-- PHASE codes, 10_state.md rule R33. -/
def Phase.code (p : Phase) : BitVec 3 :=
  match p with
  | .idle => 0#3
  | .registering => 1#3
  | .writing => 2#3
  | .waiting => 3#3
  | .power => 4#3

/-- RESULT codes, 60_exceptions.md rule R501. -/
def resultCode (r : Result) : BitVec 4 :=
  match r with
  | .ok => 0#4
  | .illegalOp => 1#4

/-- RX_STATE codes, 10_state.md rule R44. -/
def RxPhase.code (p : RxPhase) : BitVec 2 :=
  match p with
  | .idle => 0#2
  | .readingHeader => 1#2
  | .copyingBody => 2#2

/-- PSEQ_STATE codes, 10_state.md rule R50. -/
def PseqState.code (p : PseqState) : BitVec 2 :=
  match p with
  | .off => 0#2
  | .poweringOn => 1#2
  | .on => 2#2
  | .poweringOff => 3#2

/-- REG_MODE's level, 10_state.md rule R53. -/
def RegMode.level (m : RegMode) : Bool :=
  match m with
  | .normal => false
  | .lowPower => true

/-! ## Register values -/

/-- A field of a 32-bit register: `v` at bit `lo`, zeros elsewhere. -/
def field {n : Nat} (v : BitVec n) (lo : Nat) : Word := v.zeroExtend 32 <<< lo

/-- A one-bit field. -/
def bit (b : Bool) (lo : Nat) : Word := field (BitVec.ofBool b) lo

/-- STATUS of a port (10_state.md rule R60). -/
def PortState.statusWord (p : PortState) : Word :=
  bit p.busy 0 ||| bit p.done 1 ||| field (resultCode p.result) 4 ||| field p.phase.code 8

/-- CTRL of a port, read back (10_state.md rule R60). -/
def PortState.ctrlReadback (p : PortState) : Word :=
  ctrlWord p.staging.cmdOpcode p.rsv p.staging.exp p.staging.op

/-- A length register with its PRESENT bit (10_state.md rule R60). -/
def lenPresent (len : Half) (present : Bool) : Word := field len 0 ||| bit present 16

/-- GSTATUS (10_state.md rule R61). -/
def State.gstatus (s : State) : Word :=
  bit s.irqMask 0 ||| bit s.irqPending 1 ||| bit s.syncTimeoutSticky 2 ||| field s.rx.phase.code 4
    ||| field s.pwr.state.code 8 ||| field (BitVec.ofNat 2 s.ptCount) 12

/-- PWR_OUT (10_state.md rule R61). -/
def State.pwrOut (s : State) : Word := bit s.pwr.stop 0 ||| bit s.pwr.regMode.level 1

/-- PWR_IN (10_state.md rule R61). -/
def State.pwrIn (s : State) : Word := bit s.pwr.oobAck 0 ||| bit s.pwr.hostAck 1 ||| field s.pwr.wakeConfig 16

/-- PT_SLOT0 and PT_SLOT1 (10_state.md rule R61). -/
def Slot.view (t : Slot) : Word :=
  bit t.valid 0 ||| field (BitVec.ofNat 3 t.owner.val) 1 ||| field t.entry.expectedOpcode 16

end Sys2Proof.Machine
end

