-- ==== Sys2Proof/Machine/Memory.lean ====
section
/-! DEFINITION. Host memory: reading and writing bytes, and the one canonical form of the list that holds it
(20_memory.md rules R81 to R84). -/

namespace Sys2Proof.Machine

/-- What an address that the list does not name reads as (the spec gives host memory no reset contents). -/
def Memory.unlisted : Byte := 0#8

/-- How many addresses host memory has (20_memory.md rule R81: 32-bit byte addresses). -/
def Memory.size : Nat := 2 ^ 32

/-- The byte at an address. -/
def Memory.get (m : Memory) (a : Nat) : Byte :=
  match m with
  | [] => Memory.unlisted
  | (x, b) :: t => if a = x then b else Memory.get t a

/-- Memory with one byte written, in canonical form where it was so before. -/
def Memory.set (m : Memory) (a : Nat) (b : Byte) : Memory :=
  match m with
  | [] => if b = Memory.unlisted then [] else [(a, b)]
  | (x, y) :: t =>
    if a < x then (if b = Memory.unlisted then (x, y) :: t else (a, b) :: (x, y) :: t)
    else if a = x then (if b = Memory.unlisted then t else (a, b) :: t)
    else (x, y) :: Memory.set t a b

/-- `MemRead(addr, n)` of 20_memory.md rule R82: addresses do not wrap. -/
def Memory.read (m : Memory) (addr n : Nat) : List Byte :=
  (List.range n).map fun i => m.get (addr + i)

/-- `MemWrite(addr, len(B), B)` of 20_memory.md rule R83: increasing addresses, in order, without wrapping. -/
def Memory.write (m : Memory) (addr : Nat) (bytes : List Byte) : Memory :=
  match bytes with
  | [] => m
  | b :: rest => Memory.write (m.set addr b) (addr + 1) rest

/-- Every address of the list is above `lo` or equal to it, rises strictly, is a 32-bit address, and holds a byte that
an unlisted address does not read as. -/
def Memory.wfFrom (lo : Nat) (m : Memory) : Bool :=
  match m with
  | [] => true
  | (x, b) :: t => decide (lo ≤ x) && decide (x < Memory.size) && b != Memory.unlisted && Memory.wfFrom (x + 1) t

/-- The canonical form: equal memories are equal lists. -/
def Memory.wf (m : Memory) : Bool := Memory.wfFrom 0 m

/-- HOSTMEM_OK (00_scope.md rule R12): the host byte addresses the engine may access. -/
def hostmemOkAt (c : Params) (a : Nat) : Bool :=
  decide (a < Memory.size) && c.hostmemOk.any fun r => decide (r.1 ≤ a) && decide (a < r.2)

/-- Admission of an access of n bytes at addr (20_memory.md rule R84); n = 0 is always admitted. -/
def admitted (c : Params) (addr n : Nat) : Bool :=
  (List.range n).all fun i => hostmemOkAt c (addr + i)

end Sys2Proof.Machine
end

