-- ==== Sys2Proof/Machine/Ops.lean ====
section
/-! DEFINITION. The shared operations on the state: ports and slots, the event history, the tapes of free values,
transport calls and memory accesses, the table operations, completion of a request, and taking the interrupt with the
return from it. A step that its agent cannot take leaves the state as it is. -/

namespace Sys2Proof.Machine

/-! ## Ports and slots -/

/-- Port p's elements. -/
def State.port (s : State) (p : Port) : PortState := s.ports[p]

/-- The state with port p's elements replaced. -/
def State.setPort (s : State) (p : Port) (x : PortState) : State := { s with ports := s.ports.set p.val x p.isLt }

/-- `slot[i]`. -/
def State.slot (s : State) (i : SlotIx) : Slot := s.slots[i]

/-- The state with `slot[i]` replaced. -/
def State.setSlot (s : State) (i : SlotIx) (x : Slot) : State := { s with slots := s.slots.set i.val x i.isLt }

/-- Whether the implementation has port p (10_state.md rule R30). -/
def State.hasPort (s : State) (p : Port) : Bool := decide (p.val < s.cfg.numPorts)

/-! ## Events, moves and draws -/

/-- `emit E` (00_scope.md rule R19). -/
def State.emit (s : State) (e : Event) : State := { s with history := s.history ++ [e] }

/-- The outbound stream: the bytes of every TX event, in history order (20_memory.md rule R88). -/
def State.outbound (s : State) : List Byte :=
  s.history.flatMap fun e => match e with
    | .tx _ bytes => bytes
    | _ => []

/-- Whose step comes next (20_memory.md rule R95). -/
def State.nextMove (s : State) : Move := s.moves.head?.getD (Config.interleaving s.moveCount)

/-- The interleaving moves on by one. -/
def State.popMove (s : State) : State := { s with moves := s.moves.tail, moveCount := s.moveCount + 1 }

/-- The answer to the next `draw v from S`, as a number. -/
def State.nextDraw (s : State) : Nat := s.draws.head?.getD (Config.draw s.drawCount)

/-- One draw has been made. -/
def State.popDraw (s : State) : State := { s with draws := s.draws.tail, drawCount := s.drawCount + 1 }

/-- `draw v from S` (00_scope.md rule R19): an element of a non-empty list, any of them under some draw. -/
def choose {α : Type} (l : List α) (d : Nat) : Option α :=
  match l with
  | [] => none
  | [x] => some x
  | x :: y :: t => (x :: y :: t)[d % (t.length + 2)]?

/-! ## Transport and host memory -/

/-- S[i]: byte i of the inbound stream from here on (20_memory.md rule R86). -/
def State.streamByte (s : State) (i : Nat) : Byte := s.inbound[i]?.getD (Config.inboundByte (s.consumed + i))

/-- S[0..n-1]. -/
def State.streamBytes (s : State) (n : Nat) : List Byte := (List.range n).map s.streamByte

/-- The inbound stream moves on by n bytes. -/
def State.consume (s : State) (n : Nat) : State :=
  { s with inbound := s.inbound.drop n, consumed := s.consumed + n }

/-- `TransportRead(n)` by the RX engine, the only agent that reads (20_memory.md rule R86): the bytes taken are
`s.streamBytes n`. -/
def State.transportRead (s : State) (n : Nat) : State := (s.consume n).emit (.rx .rx (s.streamBytes n))

/-- `TransportWrite(B)` (20_memory.md rule R87). -/
def State.transportWrite (s : State) (a : Agent) (bytes : List Byte) : State := s.emit (.tx a bytes)

/-- The oracle answers the next reads with these bytes first (20_memory.md rule R86). -/
def State.answering (s : State) (bytes : List Byte) : State := { s with inbound := bytes ++ s.inbound }

/-- A TransportRead of n bytes with the MemWrite of them at addr, one step (20_memory.md rule R95). Not admitted, it has
no step (rule R84). -/
def State.readToMemory (s : State) (addr n : Nat) : Option State :=
  if admitted s.cfg addr n then
    some ({ s.transportRead n with mem := s.mem.write addr (s.streamBytes n) }.emit
      (.memw .rx addr (s.streamBytes n)))
  else none

/-- A MemRead of n bytes at addr with the TransportWrite of them and their padding, one step (20_memory.md rule R95).
Not admitted, it has no step (rule R84). -/
def State.sendFromMemory (s : State) (a : Agent) (addr n : Nat) (pad : List Byte) : Option State :=
  if admitted s.cfg addr n then
    some ((s.emit (.memr a addr (s.mem.read addr n))).transportWrite a (s.mem.read addr n ++ pad))
  else none

/-! ## The Pending-Request Table (43_pending_table.md) -/

/-- The least index of a free slot; none where count = CAP. -/
def State.freeSlot (s : State) : Option SlotIx := SlotIx.all.find? fun i => !(s.slot i).valid

/-- REGISTER's insert with its clear of resp_done, one step (43_pending_table.md rule R281). While the table is full it
has no step. -/
def State.insertRequest (s : State) (p : Port) (e : Entry) : Option State :=
  match s.freeSlot with
  | some i =>
    let t := s.setSlot i { valid := true, entry := e, owner := p }
    some (t.setPort p { t.port p with respDone := false })
  | none => none

/-- The slots that a received opcode matches: Mset of 43_pending_table.md rule R282. -/
def State.matching (s : State) (opcode : Half) : List SlotIx :=
  SlotIx.all.filter fun i => (s.slot i).valid && (s.slot i).entry.expectedOpcode == opcode

/-- RESOLVE(op) (43_pending_table.md rule R282): which slot, where several match, is a draw. -/
def State.resolveSlot (s : State) (opcode : Half) : Option SlotIx := choose (s.matching opcode) s.nextDraw

/-- REMOVE(i) (43_pending_table.md rule R283). -/
def State.removeSlot (s : State) (i : SlotIx) : State := s.setSlot i Slot.free

/-! ## Completion (44_dispatcher.md rule R323) -/

/-- COMPLETE(p, r). -/
def State.completePort (s : State) (p : Port) (r : Result) : State :=
  s.setPort p { s.port p with busy := false, done := true, result := r, phase := .idle }

/-! ## Taking the interrupt and returning from it (60_exceptions.md rules R514 and R515) -/

/-- H0's condition: an IRQ is pending, unmasked, and no run is in progress (45_receive_handler.md rule R360). -/
def State.irqEnabled (s : State) : Bool := s.irqPending && !s.irqMask && s.rx.phase == .idle

/-- Entry, step H0: the event is taken, the line is masked and the handler starts. No context is saved. -/
def State.takeIrq (s : State) : State :=
  { s with
    irqPending := false
    irqMask := true
    rx := { s.rx with phase := .readingHeader, label := .l1 } }.emit (.level .irqMask true)

/-- Return, step H5: the line is unmasked, whatever the mask was, and the handler is idle. -/
def State.returnFromIrq (s : State) : State :=
  { s with
    irqMask := false
    rx := { s.rx with phase := .idle, label := .h0 } }.emit (.level .irqMask false)

end Sys2Proof.Machine
end

