-- ==== Sys2Proof/Machine/Codec.lean ====
section
/-! DEFINITION. The Message Codec (42_codec.md): the steps of WRITE_COMMAND, of READ_RESPONSE_BODY and of DRAIN, and the
sync word a command frame begins with. -/

namespace Sys2Proof.Machine

/-! ## WRITE_COMMAND (42_codec.md rule R240) -/

/-- The segment that a step label sends: W3, W4 and W5 send segments 0, 1 and 2. -/
def Request.segmentAt (r : Request) (l : WriteLabel) : Segment :=
  match l with
  | .w4 => r.seg1
  | .w5 => r.seg2
  | _ => r.seg0

/-- The port after its last write: with a response expected it waits, in that same step (44_dispatcher.md rule R321,
step S3); otherwise its next step is S4 (rule R329). -/
def PortState.writesDone (x : PortState) (exp : Bool) : PortState :=
  if exp then { x with phase := .waiting } else { x with wlabel := .s4 }

/-- The port after the write at a label: it stands at the next segment that is sent, if one is left. -/
def PortState.afterWrite (x : PortState) (r : Request) (l : WriteLabel) : PortState :=
  match l with
  | .w1 => { x with wlabel := .w2 }
  | .w2 =>
    if r.seg0.sent then { x with wlabel := .w3 }
    else if r.seg1.sent then { x with wlabel := .w4 }
    else if r.seg2.sent then { x with wlabel := .w5 }
    else x.writesDone r.exp
  | .w3 =>
    if r.seg1.sent then { x with wlabel := .w4 }
    else if r.seg2.sent then { x with wlabel := .w5 }
    else x.writesDone r.exp
  | .w4 => if r.seg2.sent then { x with wlabel := .w5 } else x.writesDone r.exp
  | .w5 => x.writesDone r.exp
  | .s4 => x

/-- The port moves on after its write at a label. -/
def State.wrote (s : State) (p : Port) (r : Request) (l : WriteLabel) : State :=
  s.setPort p ((s.port p).afterWrite r l)

/-- Steps W3, W4 and W5: one segment and its padding, one TransportWrite with its MemRead. A segment that is not sent is
passed over without a write. A segment outside HOSTMEM_OK leaves the port where it is. -/
def State.writeSegment (s : State) (p : Port) (r : Request) (l : WriteLabel) : State :=
  let g := r.segmentAt l
  if g.sent then
    match s.sendFromMemory (.port p) g.base.toNat g.len.toNat g.padding with
    | some t => t.wrote p r l
    | none => s
  else s.wrote p r l

/-- The step of WRITE_COMMAND at port p's label, for the in-flight record r; none at S4, which is no label of it. A
length that the header cannot hold is refused at W1, before anything is sent. -/
def State.writeStep (s : State) (p : Port) (r : Request) : Option (Host.Outcome State Fault Refusal) :=
  match (s.port p).wlabel with
  | .w1 =>
    if 0xFFFF < r.bodyLength then some (.refused .lengthOverflow)
    else some (.next ((s.transportWrite (.port p) (bytes32 h2nSyncValue)).wrote p r .w1))
  | .w2 => some (.next ((s.transportWrite (.port p) r.headerBytes).wrote p r .w2))
  | .w3 => some (.next (s.writeSegment p r .w3))
  | .w4 => some (.next (s.writeSegment p r .w4))
  | .w5 => some (.next (s.writeSegment p r .w5))
  | .s4 => none

/-- WRITE_COMMAND (42_codec.md rule R240): the next step of port p's frame, while it is in phase WRITING. -/
def execWriteCommand (p : Port) (s : State) : Host.Outcome State Fault Refusal :=
  if s.hasPort p ∧ (s.port p).phase = .writing then (s.writeStep p (s.port p).req).getD (.next s) else .next s

/-- H2N_SYNC_WORD (30_encoding.md rule R116): the port that moves transmits it, as WRITE_COMMAND's step W1 does. Only
ports that the implementation has transmit it (10_state.md rule R30). -/
def execH2nSyncWord (s : State) : Host.Outcome State Fault Refusal :=
  match s.nextMove with
  | .port p => if s.hasPort p then .next (s.transportWrite (.port p) (bytes32 h2nSyncValue)) else .next s
  | .rx => .next s
  | .sequencer => .next s
  | .host _ => .next s
  | .env _ => .next s

/-! ## DRAIN (42_codec.md rule R243) -/

/-- One step of DRAIN(n): the next chunk goes to the scratch buffer; what is left is kept for the next step. -/
def State.drainChunk (s : State) (n : Nat) : State :=
  if n = 0 then { s with rx := { s.rx with drainLeft := 0 } }
  else
    let c := min n s.cfg.scratchBytes
    { s.transportRead c with
      rx := { s.rx with drainLeft := n - c, scratch := s.streamBytes c ++ s.rx.scratch.drop c } }

/-- DRAIN(n) (42_codec.md rule R243): its next step. -/
def execDrain (n : Nat) (s : State) : Host.Outcome State Fault Refusal := .next (s.drainChunk n)

/-! ## READ_RESPONSE_BODY (42_codec.md rule R241) -/

/-- The body is consumed: H4 where a slot matched, else H5 (45_receive_handler.md rule R360). -/
def State.bodyDone (s : State) : State :=
  { s with rx := { s.rx with label := if s.rx.slot.isSome then .h4 else .h5 } }

/-- The bytes to drain, if any, come next. -/
def State.thenDrain (s : State) (n : Nat) : State :=
  if n = 0 then s.bodyDone else { s with rx := { s.rx with drainLeft := n, label := .d1 } }

/-- B4: an excess is counted as ResponseOverflow and drained. -/
def State.bodyB4 (s : State) : State :=
  if s.rx.rem = 0 then s.bodyDone
  else { s with cntOverflow := s.cntOverflow + 1#32 }.thenDrain s.rx.rem

/-- The internal updates before B3: a payload read comes next where B3 reads at least one byte; otherwise B3 only sets
rx_rem. -/
def State.bodyB3 (s : State) (e : Entry) : State :=
  if payloadRead e s.rx.rem = 0 then { s with rx := { s.rx with rem := afterPayload e s.rx.rem } }.bodyB4
  else { s with rx := { s.rx with label := .b3 } }

/-- B1: where no slot matched, NoPendingMatch is counted and the whole length is drained; else the remainder is set and
the descriptor read comes next, where it reads at least one byte. -/
def State.bodyB1 (s : State) : State :=
  match s.rx.slot with
  | none => { s with cntNoMatch := s.cntNoMatch + 1#32 }.thenDrain s.rx.len.toNat
  | some i =>
    let e := (s.slot i).entry
    let t := { s with rx := { s.rx with rem := remainder e s.rx.len } }
    if e.dcap = 0#16 then t.bodyB3 e else { t with rx := { t.rx with label := .b2 } }

/-- The step of READ_RESPONSE_BODY at the RX engine's control position; none where that is no label of it. An access
outside HOSTMEM_OK leaves the RX engine where it is. -/
def State.bodyStep (s : State) : Option State :=
  match s.rx.label, s.rx.slot with
  | .b1, _ => some s.bodyB1
  | .b2, some i =>
    let e := (s.slot i).entry
    (s.readToMemory e.dbase.toNat e.dcap.toNat).map fun t => t.bodyB3 e
  | .b3, some i =>
    let e := (s.slot i).entry
    (s.readToMemory e.pbase.toNat (payloadRead e s.rx.rem)).map fun t =>
      { t with rx := { t.rx with rem := afterPayload e s.rx.rem } }.bodyB4
  | .d1, _ =>
    let t := s.drainChunk s.rx.drainLeft
    some (if t.rx.drainLeft = 0 then t.bodyDone else t)
  | _, _ => none

/-- READ_RESPONSE_BODY (42_codec.md rule R241): the next step of a body in progress. It returns at label `h4` or `h5`. -/
def execReadResponseBody (s : State) : Host.Outcome State Fault Refusal := .next (s.bodyStep.getD s)

end Sys2Proof.Machine
end

