-- ==== Sys2Proof/Machine/Dispatcher.lean ====
section
/-! DEFINITION. The Command Dispatcher (44_dispatcher.md): SUBMIT, SEND_COMMAND, COMPLETE and the illegal word. -/

namespace Sys2Proof.Machine

/-! ## Submission (44_dispatcher.md rule R320) -/

/-- `CTRL fields of p <- v`. -/
def PortState.storeCtrl (x : PortState) (v : Word) : PortState :=
  { x with
    rsv := ctrlRsv v
    staging := { x.staging with op := ctrlOp v, exp := ctrlExp v, cmdOpcode := ctrlCmdOpcode v } }

/-- The staging registers are latched; DONE and RESULT are cleared. -/
def PortState.latch (x : PortState) : PortState := { x with req := x.staging, done := false, result := .ok }

/-- The port starts a SEND_COMMAND: its first label is S1 where a response is expected, else W1. -/
def PortState.startSend (x : PortState) (exp : Bool) : PortState :=
  { x with busy := true, phase := if exp then .registering else .writing, wlabel := .w1 }

/-- The port starts a power operation: the sequencer runs it (44_dispatcher.md rule R332). -/
def PortState.startPower (x : PortState) : PortState := { x with busy := true, phase := .power }

/-- An accepted illegal word: the latch, then COMPLETE(p, ILLEGAL_OP) (44_dispatcher.md rule R324). -/
def State.acceptIllegal (s : State) (p : Port) : State :=
  (s.setPort p (s.port p).latch).completePort p .illegalOp

/-- What an idle port does with a word, once its fields are stored. -/
def State.acceptWord (s : State) (p : Port) (v : Word) : State :=
  match decodeCtrlWord v with
  | .sendCommand exp _ => s.setPort p ((s.port p).latch.startSend exp)
  | .powerOn => s.setPort p (s.port p).latch.startPower
  | .powerOff => s.setPort p (s.port p).latch.startPower
  | _ => s.acceptIllegal p

/-- SUBMIT(p, v): the fields are stored; a busy port does nothing more (44_dispatcher.md rule R325). -/
def State.submit (s : State) (p : Port) (v : Word) : State :=
  let t := s.setPort p ((s.port p).storeCtrl v)
  if (s.port p).busy then t else t.acceptWord p v

/-- SUBMIT (44_dispatcher.md rule R320), for a port the implementation has. -/
def execSubmit (p : Port) (v : Word) (s : State) : Host.Outcome State Fault Refusal :=
  if s.hasPort p then .next (s.submit p v) else .next s

/-- The port whose CTRL register the host writes in the next move, if it writes one: CTRL of port p is at
BASE + 0x40·p (10_state.md rule R60). -/
def State.ctrlWritePort (s : State) : Option Port :=
  match s.nextMove with
  | .host (.write addr .word _) =>
    Port.all.find? fun p => s.hasPort p && addr.toNat == s.cfg.base.toNat + 0x40 * p.val
  | _ => none

/-- ILLEGAL (44_dispatcher.md rule R324): the host's CTRL write of an illegal word. A busy port only stores the fields
(rule R325). -/
def execIllegal (w : Word) (s : State) : Host.Outcome State Fault Refusal :=
  match s.ctrlWritePort with
  | some p =>
    if isIllegal w then
      let t := s.setPort p ((s.port p).storeCtrl w)
      if (s.port p).busy then .next t else .next (t.acceptIllegal p)
    else .next s
  | none => .next s

/-! ## Running and completing a command -/

/-- COMPLETE(p, r) (44_dispatcher.md rule R323), for a port the implementation has. -/
def execComplete (p : Port) (r : Result) (s : State) : Host.Outcome State Fault Refusal :=
  if s.hasPort p then .next (s.completePort p r) else .next s

/-- Step S1: REGISTER, and phase WRITING in the same step. While the table is full the port stalls. -/
def State.sendRegister (s : State) (p : Port) (r : Request) : State :=
  match s.insertRequest p r.entry with
  | some t => t.setPort p { t.port p with phase := .writing, wlabel := .w1 }
  | none => s

/-- The step of SEND_COMMAND at port p's control position, for the in-flight record r (44_dispatcher.md rule R321). In
phase WAITING it is enabled only when resp_done is 1 (rule R322). -/
def State.sendStep (s : State) (p : Port) (r : Request) : Host.Outcome State Fault Refusal :=
  match (s.port p).phase with
  | .idle => .next s
  | .registering => .next (s.sendRegister p r)
  | .writing => (s.writeStep p r).getD (.next (s.completePort p .ok))
  | .waiting => if (s.port p).respDone then .next (s.completePort p .ok) else .next s
  | .power => .next s

/-- SEND_COMMAND (44_dispatcher.md rule R321): the next step of the port that moves. EXP and CMD_OPCODE are the
instruction's; the other operands are the port's in-flight record. -/
def execSendCommand (exp : Bool) (cmdOpcode : Half) (s : State) : Host.Outcome State Fault Refusal :=
  match s.nextMove with
  | .port p =>
    if s.hasPort p then s.sendStep p { (s.port p).req with exp := exp, cmdOpcode := cmdOpcode } else .next s
  | .rx => .next s
  | .sequencer => .next s
  | .host _ => .next s
  | .env _ => .next s

end Sys2Proof.Machine
end

