-- ==== Sys2Proof/Machine/FrameSync.lean ====
section
/-! DEFINITION. The Frame Sync Locator (41_frame_sync.md): the steps of LOCATE, and the wire words it sends and takes.
A step is one transport call with the internal updates that follow it (20_memory.md rule R95). -/

namespace Sys2Proof.Machine

/-- Where the search of L3 to L6 stops between two transport reads. -/
inductive SearchEnd where
  /-- The candidate passes SyncMatch. -/
  | found
  /-- a mod 4 = 0 after a failed comparison: L4 reads next. -/
  | needsRead
  /-- a has reached SYNC_SCAN_LIMIT. -/
  | timeout
deriving DecidableEq, Repr

/-- The tests and shifts of L3 to L6 up to the next read, the match or the limit. `fuel` bounds them: four tests always
meet a multiple of 4. -/
def searchFrom (c : Params) (seq : BitVec 8) (fuel : Nat) (w : Window) (a : Nat) : SearchEnd × Window × Nat :=
  match fuel with
  | 0 => (.needsRead, w, a)
  | n + 1 =>
    if syncMatch c w.candidate seq then (.found, w, a)
    else if a % 4 = 0 then (.needsRead, w, a)
    else if a + 1 = syncScanLimit then (.timeout, w.shift, a + 1)
    else searchFrom c seq n w.shift (a + 1)

/-- The shift that follows L4's read (L5, L6), then the search. -/
def searchAfterRead (c : Params) (seq : BitVec 8) (w : Window) (a : Nat) : SearchEnd × Window × Nat :=
  if a + 1 = syncScanLimit then (.timeout, w.shift, a + 1) else searchFrom c seq 4 w.shift (a + 1)

/-- L7 where the search has found a match; otherwise L4's read or the SyncTimeout comes next. -/
def State.afterSearch (s : State) (r : SearchEnd × Window × Nat) : State :=
  match r with
  | (.found, w, a) =>
    let m : Fin 4 := Fin.ofNat 4 a
    if m = 0 then { s with rx := { s.rx with window := w, a := a, m := m, label := .l9 } }
    else { s with rx := { s.rx with window := w.rebase, a := a, m := m, label := .l8 } }
  | (.needsRead, w, a) => { s with rx := { s.rx with window := w, a := a, label := .l4 } }
  | (.timeout, w, a) => { s with rx := { s.rx with window := w, a := a, label := .h6 } }

/-- L10's test after a read into W[0..3]: another sync word is skipped; otherwise word A stands there, and L11's
increment of tx_seq_num follows (41_frame_sync.md rules R210 and R211). -/
def State.afterWord (s : State) (w : Window) : State :=
  if syncMatch s.cfg w.candidate s.txSeqNum then { s with rx := { s.rx with window := w, label := .l10 } }
  else { s with txSeqNum := s.txSeqNum + 1#8, rx := { s.rx with window := w, label := .l11 } }

/-- L1: "I am about to read". -/
def State.locateL1 (s : State) : State :=
  { s.transportWrite .rx (bytes32 h2nCnysValue) with rx := { s.rx with label := .l2 } }

/-- L2, then the first test of L3. -/
def State.locateL2 (s : State) : State :=
  (s.transportRead 4).afterSearch
    (searchFrom s.cfg s.txSeqNum 4 (s.rx.window.setLow (s.streamBytes 4)) 0)

/-- L4, then the shifts and tests up to the next read. -/
def State.locateL4 (s : State) : State :=
  (s.transportRead 4).afterSearch
    (searchAfterRead s.cfg s.txSeqNum (s.rx.window.setHigh (s.streamBytes 4)) s.rx.a)

/-- L8: the m bytes that complete the word after the sync word. -/
def State.locateL8 (s : State) : State :=
  (s.transportRead s.rx.m.val).afterWord (s.rx.window.fillTail s.rx.m (s.streamBytes s.rx.m.val))

/-- L9: the word after an aligned sync word. -/
def State.locateL9 (s : State) : State :=
  (s.transportRead 4).afterWord (s.rx.window.setLow (s.streamBytes 4))

/-- L10: the next word of a run of sync words. -/
def State.locateL10 (s : State) : State :=
  (s.transportRead 4).afterWord (s.rx.window.setLow (s.streamBytes 4))

/-- L11: the header. -/
def State.locateL11 (s : State) : State :=
  let w := s.rx.window.setHigh (s.streamBytes 4)
  { s.transportRead 4 with
    rx := { s.rx with window := w, label := if s.rx.m = 0 then .locOk else .l12 } }

/-- L12: the filler is read and discarded. -/
def State.locateL12 (s : State) : State :=
  { s.transportRead (filler s.rx.m) with rx := { s.rx with label := .locOk } }

/-- The step of LOCATE at the RX engine's control position; none where that is no label of LOCATE. -/
def State.locateStep (s : State) : Option State :=
  match s.rx.label with
  | .l1 => some s.locateL1
  | .l2 => some s.locateL2
  | .l4 => some s.locateL4
  | .l8 => some s.locateL8
  | .l9 => some s.locateL9
  | .l10 => some s.locateL10
  | .l11 => some s.locateL11
  | .l12 => some s.locateL12
  | _ => none

/-- LOCATE (41_frame_sync.md rule R200): the next step of a LOCATE in progress. It returns at label `locOk` or `h6`. -/
def execLocate (s : State) : Host.Outcome State Fault Refusal := .next (s.locateStep.getD s)

/-- H2N_CNYS_WORD (30_encoding.md rule R116): the RX engine transmits it, as LOCATE's step L1 does. -/
def execH2nCnysWord (s : State) : Host.Outcome State Fault Refusal :=
  .next (s.transportWrite .rx (bytes32 h2nCnysValue))

/-- N2H_SYNC_WORD (30_encoding.md rule R118): where LOCATE's next step reads four bytes in which it looks for a sync word
(L2, L4, L9, L10), the NWP answers that read with this word. Elsewhere the word is part of the stream like any other
bytes, and the operation has no step. -/
def execN2hSyncWord (seqSet : Bool) (seq : BitVec 2) (s : State) : Host.Outcome State Fault Refusal :=
  let t := s.answering (bytes32 (n2hSyncValue s.cfg seqSet seq))
  match s.rx.label with
  | .l2 => .next t.locateL2
  | .l4 => .next t.locateL4
  | .l9 => .next t.locateL9
  | .l10 => .next t.locateL10
  | _ => .next s

/-- FRAME_HEADER (30_encoding.md rule R120), in both directions: a port that moves, if the implementation has it,
transmits it, as WRITE_COMMAND's step W2 does; where the RX engine moves and LOCATE's next step reads the header (L11), the NWP answers with it. -/
def execFrameHeader (opcode length : Half) (s : State) : Host.Outcome State Fault Refusal :=
  match s.nextMove with
  | .port p =>
    if s.hasPort p then .next (s.transportWrite (.port p) (bytes16 opcode ++ bytes16 length)) else .next s
  | .rx => if s.rx.label = .l11 then .next (s.answering (bytes32 (headerValue opcode length))).locateL11 else .next s
  | .sequencer => .next s
  | .host _ => .next s
  | .env _ => .next s

end Sys2Proof.Machine
end

