-- ==== Sys2Proof/Machine/Power.lean ====
section
/-! DEFINITION. The Power Sequencer (46_power_sequencer.md): acceptance, POWER_ON and POWER_OFF, one step a label. -/

namespace Sys2Proof.Machine

/-- The ports that wait for the sequencer. -/
def State.powerPorts (s : State) : List Port := Port.all.filter fun p => s.hasPort p && (s.port p).phase == .power

/-- The port that an acceptance would draw (46_power_sequencer.md rule R402). -/
def State.drawnPort (s : State) : Option Port := choose s.powerPorts s.nextDraw

/-- The sequencer's step moves on to a label. -/
def State.pseqTo (s : State) (l : PseqStep) : State := { s with pwr := { s.pwr with step := l } }

/-- The last step of a power operation: its state, IDLE, and COMPLETE(q, OK). -/
def State.powerDone (s : State) (p : PseqState) : State :=
  { s with pwr := { s.pwr with state := p, step := .idle } }.completePort s.pwr.port .ok

/-- PON1, for the accepted port. -/
def State.pon1 (s : State) (q : Port) : State :=
  { s with pwr := { s.pwr with state := .poweringOn, stop := false, port := q, step := .pon2 } }.emit
    (.level .stop false)

/-- POF1, for the accepted port. -/
def State.pof1 (s : State) (q : Port) : State :=
  { s with pwr := { s.pwr with state := .poweringOff, port := q, step := .pof2 } }.emit (.pulse .oobTrigger)

/-- POWER_ON (46_power_sequencer.md rule R400): the sequencer's next step. When it is idle, that is the acceptance with
PON1, where the drawn port asks for POWER_ON. PON5 stalls while the table is full, and PON6 until resp_done is 1. -/
def execPowerOn (s : State) : Host.Outcome State Fault Refusal :=
  match s.pwr.step with
  | .idle => match s.drawnPort with
    | some q => if (s.port q).req.op = 2#4 then .next (s.popDraw.pon1 q) else .next s
    | none => .next s
  | .pon1 => .next (s.pon1 s.pwr.port)
  | .pon2 => .next ({ s with pwr := { s.pwr with hostAck := false, step := .pon3 } }.emit (.pulse .hostAckClr))
  | .pon3 => .next ((s.pseqTo .pon4).emit (.pulse .wakeReq))
  | .pon4 => .next (({ s with irqMask := false }.pseqTo .pon5).emit (.level .irqMask false))
  | .pon5 => match s.insertRequest s.pwr.port (initCompleteEntry s.cfg) with
    | some t => .next (t.pseqTo .pon6)
    | none => .next s
  | .pon6 => if (s.port s.pwr.port).respDone then .next (s.powerDone .on) else .next s
  | .pof1 => .next s
  | .pof2 => .next s
  | .pof3 => .next s
  | .pof4 => .next s
  | .pof5 => .next s
  | .pof6 => .next s
  | .pof7 => .next s
  | .pof8 => .next s

/-- POWER_OFF (46_power_sequencer.md rule R401): the sequencer's next step. When it is idle, that is the acceptance with
POF1, where the drawn port asks for POWER_OFF. POF2 and POF3 are enabled only while their condition holds. -/
def execPowerOff (s : State) : Host.Outcome State Fault Refusal :=
  match s.pwr.step with
  | .idle => match s.drawnPort with
    | some q => if (s.port q).req.op = 3#4 then .next (s.popDraw.pof1 q) else .next s
    | none => .next s
  | .pon1 => .next s
  | .pon2 => .next s
  | .pon3 => .next s
  | .pon4 => .next s
  | .pon5 => .next s
  | .pon6 => .next s
  | .pof1 => .next (s.pof1 s.pwr.port)
  | .pof2 => if s.pwr.oobAck then .next (s.pseqTo .pof3) else .next s
  | .pof3 => if s.pwr.wakeConfig = s.cfg.quiescedValue then .next (s.pseqTo .pof4) else .next s
  | .pof4 => .next ({ s with pwr := { s.pwr with oobAck := false, step := .pof5 } }.emit (.pulse .oobAckClr))
  | .pof5 => .next (({ s with irqMask := true }.pseqTo .pof6).emit (.level .irqMask true))
  | .pof6 => .next ({ s with pwr := { s.pwr with regMode := .lowPower, step := .pof7 } }.emit (.level .regMode true))
  | .pof7 => .next ({ s with pwr := { s.pwr with stop := true, step := .pof8 } }.emit (.level .stop true))
  | .pof8 => .next ((s.emit .settle).powerDone .off)

end Sys2Proof.Machine
end

