-- ==== Sys2Proof/Machine/Table.lean ====
section
/-! DEFINITION. The Pending-Request Table's operations (43_pending_table.md), each one atomic step (rule R280). -/

namespace Sys2Proof.Machine

/-- REGISTER(p, e) (43_pending_table.md rule R281): enabled only while a slot is free and the port exists. -/
def execRegister (p : Port) (e : Entry) (s : State) : Host.Outcome State Fault Refusal :=
  if s.hasPort p then .next ((s.insertRequest p e).getD s) else .next s

/-- RESOLVE(op) (43_pending_table.md rule R282): the result goes into rx_slot. -/
def State.resolve (s : State) (opcode : Half) : State :=
  { s.popDraw with rx := { s.rx with slot := s.resolveSlot opcode } }

/-- RESOLVE(op) (43_pending_table.md rule R282). -/
def execResolve (opcode : Half) (s : State) : Host.Outcome State Fault Refusal := .next (s.resolve opcode)

/-- REMOVE(i) (43_pending_table.md rule R283). -/
def execRemove (i : SlotIx) (s : State) : Host.Outcome State Fault Refusal := .next (s.removeSlot i)

end Sys2Proof.Machine
end

