-- ==== Sys2Proof/Machine/Receive.lean ====
section
/-! DEFINITION. The Receive Handler (45_receive_handler.md): one run of ON_NWP_IRQ, step by step. -/

namespace Sys2Proof.Machine

/-- The internal updates that belong to the step before them (20_memory.md rule R95): rx_opcode and rx_len after a
LOCATE that succeeded, H6 after one that timed out (45_receive_handler.md rule R361), and B1 after RESOLVE. -/
def State.settle (s : State) : State :=
  match s.rx.label with
  | .locOk =>
    { s with rx := { s.rx with
        opcode := s.rx.window.headerOpcode, len := s.rx.window.headerLength, label := .h2 } }
  | .h6 =>
    { s with
      syncTimeoutSticky := true
      cntSyncTimeout := s.cntSyncTimeout + 1#32
      rx := { s.rx with label := .h5 } }
  | .b1 => s.bodyB1
  | _ => s

/-- H2: RESOLVE, and rx_state COPYING_BODY. -/
def State.handlerResolve (s : State) : State :=
  let t := s.resolve s.rx.opcode
  { t with rx := { t.rx with phase := .copyingBody, label := .b1 } }

/-- H4: resp_done of the slot's owner is set and the slot is removed, in one step. -/
def State.handlerComplete (s : State) : State :=
  match s.rx.slot with
  | some i =>
    let p := (s.slot i).owner
    let t := s.setPort p { s.port p with respDone := true }
    let u := t.removeSlot i
    { u with rx := { u.rx with label := .h5 } }
  | none => s

/-- ON_NWP_IRQ (45_receive_handler.md rule R360): the RX engine's next step. H0 waits for its condition; a stuck body
access stays where it is. -/
def execOnNwpIrq (s : State) : Host.Outcome State Fault Refusal :=
  match s.rx.label with
  | .h0 => if s.irqEnabled then .next s.takeIrq else .next s
  | .l1 => .next (s.locateStep.getD s).settle
  | .l2 => .next (s.locateStep.getD s).settle
  | .l4 => .next (s.locateStep.getD s).settle
  | .l8 => .next (s.locateStep.getD s).settle
  | .l9 => .next (s.locateStep.getD s).settle
  | .l10 => .next (s.locateStep.getD s).settle
  | .l11 => .next (s.locateStep.getD s).settle
  | .l12 => .next (s.locateStep.getD s).settle
  | .locOk => .next s.settle
  | .h2 => .next s.handlerResolve.settle
  | .b1 => .next s.settle
  | .b2 => .next (s.bodyStep.getD s)
  | .b3 => .next (s.bodyStep.getD s)
  | .d1 => .next (s.bodyStep.getD s)
  | .h4 => .next s.handlerComplete
  | .h5 => .next s.returnFromIrq
  | .h6 => .next s.settle

end Sys2Proof.Machine
end

