-- ==== Sys2Proof/Machine/Dispatch.lean ====
section
/-! DEFINITION. The meaning of every operation of the opcode table: the atomic step (20_memory.md rule R95) that the
operation takes next. -/

namespace Sys2Proof.Machine

def exec (i : Instr) (s : State) : Host.Outcome State Fault Refusal :=
  match i with
  | .sendCommand exp cmdOpcode => Sys2Proof.Machine.execSendCommand exp cmdOpcode s
  | .powerOn => Sys2Proof.Machine.execPowerOn s
  | .powerOff => Sys2Proof.Machine.execPowerOff s
  | .illegal word => Sys2Proof.Machine.execIllegal word s
  | .h2nSyncWord => Sys2Proof.Machine.execH2nSyncWord s
  | .h2nCnysWord => Sys2Proof.Machine.execH2nCnysWord s
  | .n2hSyncWord seqSet seq => Sys2Proof.Machine.execN2hSyncWord seqSet seq s
  | .frameHeader opcode length => Sys2Proof.Machine.execFrameHeader opcode length s
  | .locate => Sys2Proof.Machine.execLocate s
  | .writeCommand p => Sys2Proof.Machine.execWriteCommand p s
  | .readResponseBody => Sys2Proof.Machine.execReadResponseBody s
  | .drain n => Sys2Proof.Machine.execDrain n s
  | .register p e => Sys2Proof.Machine.execRegister p e s
  | .resolve opcode => Sys2Proof.Machine.execResolve opcode s
  | .remove ix => Sys2Proof.Machine.execRemove ix s
  | .submit p v => Sys2Proof.Machine.execSubmit p v s
  | .complete p r => Sys2Proof.Machine.execComplete p r s
  | .onNwpIrq => Sys2Proof.Machine.execOnNwpIrq s

end Sys2Proof.Machine
end

