-- ==== Sys2Proof/Machine/Environment.lean ====
section
/-! DEFINITION. The environment's moves (20_memory.md rule R89). Its answers to transport reads are the inbound stream
(Machine/Ops.lean). -/

namespace Sys2Proof.Machine

/-- A WC_W-bit value (10_state.md rule R56). -/
def wakeValue (c : Params) (v : BitVec 16) : BitVec 16 := BitVec.ofNat 16 (v.toNat % 2 ^ c.wcW)

/-- A move as it acts and as the history records it: SET_WAKE_CONFIG of a value wider than WC_W bits, which 20_memory.md
rule R89 does not have, is SET_WAKE_CONFIG of its low WC_W bits. DESIGN CHOICE, log entry 25. -/
def takenMove (c : Params) (e : EnvMove) : EnvMove :=
  match e with
  | .irq => .irq
  | .setOobAck => .setOobAck
  | .setHostAck => .setHostAck
  | .setWakeConfig v => .setWakeConfig (wakeValue c v)

/-- A move of the environment. A wake value wider than WC_W bits loses the bits above: DESIGN CHOICE, log entry 25. -/
def State.envStep (s : State) (e : EnvMove) : State :=
  match e with
  | .irq => { s with irqPending := true }
  | .setOobAck => { s with pwr := { s.pwr with oobAck := true } }
  | .setHostAck => { s with pwr := { s.pwr with hostAck := true } }
  | .setWakeConfig v => { s with pwr := { s.pwr with wakeConfig := wakeValue s.cfg v } }

end Sys2Proof.Machine
end

