-- ==== Sys2Proof/Machine/Registers.lean ====
section
/-! DEFINITION. The register map (10_state.md rules R58 to R66), and what a host access does. -/

namespace Sys2Proof.Machine

/-- The registers of 10_state.md rules R60 and R61. `reserved` is every other address of the range (rule R58). -/
inductive Reg where
  | ctrl (p : Port)
  | expOpcode (p : Port)
  | seg0Base (p : Port)
  | seg0Len (p : Port)
  | seg1Base (p : Port)
  | seg1Len (p : Port)
  | seg2Base (p : Port)
  | seg2Len (p : Port)
  | rdescBase (p : Port)
  | rdescCap (p : Port)
  | rpayBase (p : Port)
  | rpayCap (p : Port)
  | status (p : Port)
  | statusClr (p : Port)
  | gstatus
  | txSeq
  | cntSyncTimeout
  | cntNoMatch
  | cntOverflow
  | pwrOut
  | pwrIn
  | ptSlot (i : SlotIx)
  | reserved
deriving DecidableEq, Repr

/-- The register at an offset of port p's block (10_state.md rule R60). -/
def portReg (p : Port) (off : Nat) : Reg :=
  match off with
  | 0x00 => .ctrl p
  | 0x04 => .expOpcode p
  | 0x08 => .seg0Base p
  | 0x0C => .seg0Len p
  | 0x10 => .seg1Base p
  | 0x14 => .seg1Len p
  | 0x18 => .seg2Base p
  | 0x1C => .seg2Len p
  | 0x20 => .rdescBase p
  | 0x24 => .rdescCap p
  | 0x28 => .rpayBase p
  | 0x2C => .rpayCap p
  | 0x30 => .status p
  | 0x34 => .statusClr p
  | _ => .reserved

/-- The register at an offset from BASE + 0x200 (10_state.md rule R61). -/
def globalReg (off : Nat) : Reg :=
  match off with
  | 0x00 => .gstatus
  | 0x04 => .txSeq
  | 0x08 => .cntSyncTimeout
  | 0x0C => .cntNoMatch
  | 0x10 => .cntOverflow
  | 0x14 => .pwrOut
  | 0x18 => .pwrIn
  | 0x20 => .ptSlot 0
  | 0x24 => .ptSlot 1
  | _ => .reserved

/-- The register at an offset from BASE (10_state.md rule R58): port p's block is at 0x40·p where the port exists, the
global block at 0x200. -/
def regAt (c : Params) (off : Nat) : Reg :=
  if off < 0x200 then
    if off / 0x40 < c.numPorts then portReg (Fin.ofNat 8 (off / 0x40)) (off % 0x40) else .reserved
  else globalReg (off - 0x200)

/-- What a host access reaches. -/
inductive Target where
  /-- A register access of 10_state.md rule R58. -/
  | register (r : Reg)
  /-- An access to the register range that rule R58 refuses. -/
  | refused
  /-- Host memory: no address of the access is in the register range. -/
  | memory
  /-- Host memory, past its last address. -/
  | beyond
deriving DecidableEq, Repr

/-- The target of an access of a width at an address. -/
def target (c : Params) (addr : Word) (w : Width) : Target :=
  let a := addr.toNat
  let lo := c.base.toNat
  if lo < a + w.bytes ∧ a < lo + 0x400 then
    if w = .word ∧ a % 4 = 0 ∧ lo ≤ a then .register (regAt c (a - lo)) else .refused
  else if a + w.bytes ≤ Memory.size then .memory
  else .beyond

/-- The value of a register (10_state.md rules R59 to R61). A read has no side effect. -/
def State.readReg (s : State) (r : Reg) : Word :=
  match r with
  | .ctrl p => (s.port p).ctrlReadback
  | .expOpcode p => field (s.port p).staging.expOpcode 0
  | .seg0Base p => (s.port p).staging.seg0.base
  | .seg0Len p => lenPresent (s.port p).staging.seg0.len (s.port p).staging.seg0.present
  | .seg1Base p => (s.port p).staging.seg1.base
  | .seg1Len p => lenPresent (s.port p).staging.seg1.len (s.port p).staging.seg1.present
  | .seg2Base p => (s.port p).staging.seg2.base
  | .seg2Len p => lenPresent (s.port p).staging.seg2.len (s.port p).staging.seg2.present
  | .rdescBase p => (s.port p).staging.rdescBase
  | .rdescCap p => field (s.port p).staging.rdescCap 0
  | .rpayBase p => (s.port p).staging.rpayBase
  | .rpayCap p => lenPresent (s.port p).staging.rpayCap (s.port p).staging.rpayPresent
  | .status p => (s.port p).statusWord
  | .statusClr _ => 0#32
  | .gstatus => s.gstatus
  | .txSeq => field s.txSeqNum 0
  | .cntSyncTimeout => s.cntSyncTimeout
  | .cntNoMatch => s.cntNoMatch
  | .cntOverflow => s.cntOverflow
  | .pwrOut => s.pwrOut
  | .pwrIn => s.pwrIn
  | .ptSlot i => (s.slot i).view
  | .reserved => 0#32

/-- The low half of a register value: the LEN or CAP or opcode field. -/
def lowHalf (v : Word) : Half := v.extractLsb' 0 16

/-- The staging registers of port p with one change. -/
def State.stage (s : State) (p : Port) (r : Request) : State := s.setPort p { s.port p with staging := r }

/-- A register write other than to CTRL (10_state.md rules R59 to R61): read-write fields are stored, W1C fields are
cleared by a 1, read-only fields and reserved addresses ignore it. A CTRL write is a submission (44_dispatcher.md rule
R320) and is not here. -/
def State.writeReg (s : State) (r : Reg) (v : Word) : State :=
  match r with
  | .ctrl _ => s
  | .expOpcode p => s.stage p { (s.port p).staging with expOpcode := lowHalf v }
  | .seg0Base p => s.stage p { (s.port p).staging with seg0 := { (s.port p).staging.seg0 with base := v } }
  | .seg0Len p => s.stage p { (s.port p).staging with
      seg0 := { (s.port p).staging.seg0 with len := lowHalf v, present := v.getLsbD 16 } }
  | .seg1Base p => s.stage p { (s.port p).staging with seg1 := { (s.port p).staging.seg1 with base := v } }
  | .seg1Len p => s.stage p { (s.port p).staging with
      seg1 := { (s.port p).staging.seg1 with len := lowHalf v, present := v.getLsbD 16 } }
  | .seg2Base p => s.stage p { (s.port p).staging with seg2 := { (s.port p).staging.seg2 with base := v } }
  | .seg2Len p => s.stage p { (s.port p).staging with
      seg2 := { (s.port p).staging.seg2 with len := lowHalf v, present := v.getLsbD 16 } }
  | .rdescBase p => s.stage p { (s.port p).staging with rdescBase := v }
  | .rdescCap p => s.stage p { (s.port p).staging with rdescCap := lowHalf v }
  | .rpayBase p => s.stage p { (s.port p).staging with rpayBase := v }
  | .rpayCap p => s.stage p { (s.port p).staging with rpayCap := lowHalf v, rpayPresent := v.getLsbD 16 }
  | .status _ => s
  | .statusClr p => if v.getLsbD 1 then s.setPort p { s.port p with done := false } else s
  | .gstatus => if v.getLsbD 2 then { s with syncTimeoutSticky := false } else s
  | .txSeq => s
  | .cntSyncTimeout => s
  | .cntNoMatch => s
  | .cntOverflow => s
  | .pwrOut => s
  | .pwrIn => s
  | .ptSlot _ => s
  | .reserved => s

/-- What a host move that is no submission does: a register access, or host software's own access to host memory. -/
def State.hostStep (s : State) (h : HostMove) : Host.Outcome State Fault Refusal :=
  match h with
  | .read addr w => match target s.cfg addr w with
    | .register _ => .next s
    | .refused => .refused .registerAccess
    | .memory => .next s
    | .beyond => .fault .hostAddressOutsideMemory
  | .write addr w v => match target s.cfg addr w with
    | .register r => .next (s.writeReg r v)
    | .refused => .refused .registerAccess
    | .memory => .next { s with mem := s.mem.write addr.toNat (hostBytes w v) }
    | .beyond => .fault .hostAddressOutsideMemory

/-- The event a host move leaves in the history (20_memory.md rule R88): register accesses only. -/
def State.hostEvents (s : State) (h : HostMove) : List Event :=
  match h with
  | .read addr w => match target s.cfg addr w with
    | .register r => [.regRead addr (s.readReg r)]
    | _ => []
  | .write addr w v => match target s.cfg addr w with
    | .register _ => [.regWrite addr v]
    | _ => []

end Sys2Proof.Machine
end

