-- ==== Sys2Proof/Machine/Fetch.lean ====
section
/-! DEFINITION. Which operation the next move runs. The engine fetches no instructions (20_memory.md rule R102) and has
no program counter (10_state.md rule R36): a request word enters through the host's write to CTRL, and then stands in
the port's in-flight record while the port or the sequencer runs it. -/

namespace Sys2Proof.Machine

/-- The operation of port p: the request word of its in-flight record, while SEND_COMMAND is in progress. A port in
IDLE or POWER has no step of its own (44_dispatcher.md rule R332). -/
def State.portOperation (s : State) (p : Port) : Option Instr :=
  if s.hasPort p then
    match (s.port p).phase with
    | .registering => some (decodeCtrlWord (s.port p).req.word)
    | .writing => some (decodeCtrlWord (s.port p).req.word)
    | .waiting => some (decodeCtrlWord (s.port p).req.word)
    | .idle => none
    | .power => none
  else none

/-- The operation of the sequencer: the one its label belongs to, or at IDLE the drawn port's request word
(46_power_sequencer.md rule R402). -/
def State.sequencerOperation (s : State) : Option Instr :=
  match s.pwr.step with
  | .idle => s.drawnPort.map fun q => decodeCtrlWord (s.port q).req.word
  | .pon1 => some .powerOn
  | .pon2 => some .powerOn
  | .pon3 => some .powerOn
  | .pon4 => some .powerOn
  | .pon5 => some .powerOn
  | .pon6 => some .powerOn
  | .pof1 => some .powerOff
  | .pof2 => some .powerOff
  | .pof3 => some .powerOff
  | .pof4 => some .powerOff
  | .pof5 => some .powerOff
  | .pof6 => some .powerOff
  | .pof7 => some .powerOff
  | .pof8 => some .powerOff

/-- The operation of a word written to CTRL of port p: ILLEGAL where the decoder says so, else its submission. -/
def ctrlWriteOperation (p : Port) (v : Word) : Instr :=
  match decodeCtrlWord v with
  | .illegal w => .illegal w
  | _ => .submit p v

/-- The operation that the next move runs; none where the move is no operation of the opcode table (another host
access, an environment move, or an agent with no operation in progress). -/
def State.fetch (s : State) : Option Instr :=
  match s.nextMove with
  | .port p => s.portOperation p
  | .rx => some .onNwpIrq
  | .sequencer => s.sequencerOperation
  | .host (.read _ _) => none
  | .host (.write _ _ v) => s.ctrlWritePort.map fun p => ctrlWriteOperation p v
  | .env _ => none

/-- What a move does that is no operation of the opcode table. -/
def State.plainMove (s : State) : Host.Outcome State Fault Refusal :=
  match s.nextMove with
  | .port _ => .next s
  | .rx => .next s
  | .sequencer => .next s
  | .host h => s.hostStep h
  | .env e => .next (s.envStep e)

/-- The REG or ENV event of the next move (20_memory.md rule R88). What SET_WAKE_CONFIG records of a value wider than
WC_W bits is the model's choice: its low WC_W bits, the value stored (DESIGN CHOICE, log entry 25). -/
def State.moveEvents (s : State) : List Event :=
  match s.nextMove with
  | .port _ => []
  | .rx => []
  | .sequencer => []
  | .host h => s.hostEvents h
  | .env e => [.env (takenMove s.cfg e)]

/-- What a step adds around the operation: the move's own event is recorded, and the interleaving moves on. -/
def State.finish (s : State) (t : State) : State :=
  { t.popMove with history := t.history ++ s.moveEvents }

/-- An outcome with its next state changed. -/
def mapNext (f : State → State) (o : Host.Outcome State Fault Refusal) : Host.Outcome State Fault Refusal :=
  match o with
  | .next s => .next (f s)
  | .fault r => .fault r
  | .refused r => .refused r

/-! ## Placing a request word where the next step runs it -/

/-- Port 0 made idle, so that it accepts a word. -/
def State.freePort0 (s : State) : State := s.setPort 0 { s.port 0 with busy := false, phase := .idle }

/-- The state in which the very next step runs the operation of a request word on port 0. SEND_COMMAND and the power
operations stand in port 0's in-flight record, as SUBMIT leaves them, with the agent that runs them next to move; an
illegal word has no life after its submission, so there the next move is the host's write of it to CTRL. -/
def State.placeWord (s : State) (v : Word) : State :=
  match decodeCtrlWord v with
  | .sendCommand _ _ =>
    let t := s.freePort0.submit 0 v
    { t with moves := .port 0 :: t.moves }
  | .illegal _ =>
    let t := s.freePort0
    { t with moves := .host (.write t.cfg.base .word v) :: t.moves }
  | _ =>
    let t := s.freePort0.submit 0 v
    { t with moves := .sequencer :: t.moves, draws := 0 :: t.draws, pwr := { t.pwr with step := .idle } }

end Sys2Proof.Machine
end

