-- ==== Sys2Proof/Machine/Step.lean ====
section
/-! DEFINITION. One step of the machine: one atomic step of the agent whose move is next (20_memory.md rule R95). -/

namespace Sys2Proof.Machine

/-- One step: the operation the next move runs, or the move itself where it is no operation of the opcode table; then
the move's event is recorded and the interleaving moves on. -/
def step (s : State) : Host.Outcome State Fault Refusal :=
  match s.fetch with
  | some i => mapNext s.finish (exec i s)
  | none => mapNext s.finish s.plainMove

/-- The state with a request word placed where the next step runs it (Machine/Fetch.lean, `State.placeWord`). -/
def State.withFetchWord (s : State) (nbits w : Nat) : State := s.placeWord (BitVec.ofNat 32 (w % 2 ^ nbits))

end Sys2Proof.Machine
end

