-- ==== Sys2Proof/WellFormed.lean ====
section
/-! DEFINITION. Which operations of `Instr` the spec admits, for an implementation's parameters. -/

namespace Sys2Proof

/-- A port that the implementation has (10_state.md rule R30). -/
def Port.present (c : Params) (p : Port) : Bool := decide (p.val < c.numPorts)

/-- An operation is well formed where its operands have the values its row admits: ILLEGAL holds an illegal word
(30_encoding.md rule R114), an N2H sync word is one of the two forms of rule R118, a port is one of the
implementation's, and DRAIN's count fits the 16-bit length or remainder it comes from (10_state.md rule R42). -/
def Instr.wf (c : Params) (i : Instr) : Bool :=
  match i with
  | .sendCommand _ _ => true
  | .powerOn => true
  | .powerOff => true
  | .illegal w => isIllegal w
  | .h2nSyncWord => true
  | .h2nCnysWord => true
  | .n2hSyncWord seqSet seq => seqSet || seq == 0#2
  | .frameHeader _ _ => true
  | .locate => true
  | .writeCommand p => Port.present c p
  | .readResponseBody => true
  | .drain n => decide (n ≤ 0xFFFF)
  | .register p _ => Port.present c p
  | .resolve _ => true
  | .remove _ => true
  | .submit p _ => Port.present c p
  | .complete p _ => Port.present c p
  | .onNwpIrq => true

end Sys2Proof
end

