-- ==== Sys2Proof/Safety.lean ====
section
/-! DEFINITION. The terms the statements use: repeated steps of one operation, and the invariant that the rules of the
spec put on every state of a run. -/

namespace Sys2Proof.Machine

/-! ## Runs of one operation -/

/-- `k` steps of one operation, with no other agent's step between them; it stops at a fault or a refusal. -/
def repeatExec (i : Instr) (k : Nat) (s : State) : Host.Outcome State Fault Refusal :=
  match k with
  | 0 => .next s
  | n + 1 => match exec i s with
    | .next t => repeatExec i n t
    | .fault r => .fault r
    | .refused r => .refused r

/-- The candidate at offset j of the inbound stream: le32(S[j..j+3]). -/
def State.wordAt (s : State) (j : Nat) : Word :=
  le32 (s.streamByte j) (s.streamByte (j + 1)) (s.streamByte (j + 2)) (s.streamByte (j + 3))

/-- LOCATE accepts the word at offset j of the inbound stream (41_frame_sync.md rule R201). -/
def State.acceptsAt (s : State) (j : Nat) : Bool := syncMatch s.cfg (s.wordAt j) s.txSeqNum

/-- S[j .. j+n-1]. -/
def State.streamAt (s : State) (j n : Nat) : List Byte := (List.range n).map fun i => s.streamByte (j + i)

/-- LOCATE meets its first accepted word at offset g, within the 40 it tests, and k more accepted words right behind it
(41_frame_sync.md rules R210 and R215). -/
abbrev State.syncAt (s : State) (g k : Nat) : Prop :=
  g < syncScanLimit ∧ (∀ j, j < g → s.acceptsAt j = false) ∧ s.acceptsAt g = true
    ∧ (∀ i, i < k → s.acceptsAt (g + 4 + 4 * i) = true) ∧ s.acceptsAt (g + 4 + 4 * k) = false

/-- The filler after a header whose sync word stood at offset g (30_encoding.md rule R122). -/
def fillerAfter (g : Nat) : Nat := if g % 4 = 0 then 0 else 4 - g % 4

/-- The window at the end of a successful LOCATE: word A and the header are S[j .. j+7] (41_frame_sync.md rule R213). -/
def State.windowAt (s : State) (j : Nat) : Window where
  w0 := s.streamByte j
  w1 := s.streamByte (j + 1)
  w2 := s.streamByte (j + 2)
  w3 := s.streamByte (j + 3)
  w4 := s.streamByte (j + 4)
  w5 := s.streamByte (j + 5)
  w6 := s.streamByte (j + 6)
  w7 := s.streamByte (j + 7)

/-- The step counts of a successful LOCATE (41_frame_sync.md rule R216). -/
def locateSteps (g k : Nat) : Nat := 1 + (1 + (g + 3) / 4) + 1 + k + 1 + if g % 4 = 0 then 0 else 1

/-! ## Command frames -/

/-- What a segment adds to the frame: nothing where it is not sent, else its bytes in host memory and its padding
(30_encoding.md rule R121). -/
def Segment.frameBytes (m : Memory) (g : Segment) : List Byte :=
  if g.sent then m.read g.base.toNat g.len.toNat ++ List.replicate (align4 g.len.toNat - g.len.toNat) 0#8 else []

/-- The H2N command frame of 30_encoding.md rule R121. -/
def Request.frame (m : Memory) (r : Request) : List Byte :=
  [0x21#8, 0x43#8, 0x34#8, 0x12#8] ++ bytes16 r.cmdOpcode ++ bytes16 (BitVec.ofNat 16 r.bodyLength)
    ++ r.seg0.frameBytes m ++ r.seg1.frameBytes m ++ r.seg2.frameBytes m

/-- s of 44_dispatcher.md rule R334: how many segments are sent. -/
def Request.sentCount (r : Request) : Nat :=
  (if r.seg0.sent then 1 else 0) + (if r.seg1.sent then 1 else 0) + if r.seg2.sent then 1 else 0

/-- Where a port stands after a write (42_codec.md rule R240, 44_dispatcher.md rules R321 and R329), by the segments that
come after what was written, each with its label: at the first of them that is sent. With none left, in WAITING where a
response is expected (its label then stays `l`), else at S4. -/
def Request.standsAfter (r : Request) (l : WriteLabel) (left : List (Segment × WriteLabel)) : Phase × WriteLabel :=
  match left.find? fun g => g.1.sent with
  | some g => (.writing, g.2)
  | none => if r.exp then (.waiting, l) else (.writing, .s4)

/-- Every segment that is sent lies in HOSTMEM_OK (20_memory.md rule R84). -/
abbrev Request.admittedSegments (c : Params) (r : Request) : Prop :=
  (r.seg0.sent = true → admitted c r.seg0.base.toNat r.seg0.len.toNat = true)
    ∧ (r.seg1.sent = true → admitted c r.seg1.base.toNat r.seg1.len.toNat = true)
    ∧ (r.seg2.sent = true → admitted c r.seg2.base.toNat r.seg2.len.toNat = true)

/-! ## Response bodies -/

/-- How many bytes the payload buffer gets, where rem0 bytes of the body follow the descriptor (42_codec.md rule
R248). -/
def payloadBytes (e : Entry) (rem0 : Nat) : Nat := if rem0 < payloadCap e then align4 rem0 else payloadCap e

/-- How many bytes are drained (42_codec.md rule R249). -/
def overflowBytes (e : Entry) (rem0 : Nat) : Nat := if rem0 < payloadCap e then 0 else rem0 - payloadCap e

/-- How many steps DRAIN takes (42_codec.md rule R254). -/
def drainSteps (c : Params) (n : Nat) : Nat := (n + c.scratchBytes - 1) / c.scratchBytes

/-! ## Submissions -/

/-- Port p's staging registers after a CTRL write of v (10_state.md rule R60). -/
def State.stagedWith (s : State) (p : Port) (v : Word) : Request :=
  { (s.port p).staging with op := ctrlOp v, exp := ctrlExp v, cmdOpcode := ctrlCmdOpcode v }

/-! ## Events -/

/-- The inbound bytes that events record, in their order (20_memory.md rule R88). -/
def inboundBytesOf (es : List Event) : List Byte :=
  es.flatMap fun e => match e with
    | .rx _ bytes => bytes
    | _ => []

/-- An event that moves bytes moves at least one (20_memory.md rules R86 and R87). -/
def Event.nonempty (e : Event) : Bool :=
  match e with
  | .tx _ bytes => !bytes.isEmpty
  | .rx _ bytes => !bytes.isEmpty
  | _ => true

/-! ## The parts of the invariant -/

/-- Port p waits for the response that a valid slot of its registers: a SEND_COMMAND past S1, or POWER_ON at PON6
(43_pending_table.md rule R287). -/
def State.awaits (s : State) (p : Port) : Prop :=
  ((s.port p).phase = .writing ∧ (s.port p).req.exp = true) ∨ (s.port p).phase = .waiting
    ∨ ((s.port p).phase = .power ∧ s.pwr.step = .pon6 ∧ s.pwr.port = p)

/-- What 10_state.md rules R33 and R34, 44_dispatcher.md rule R320 and 60_exceptions.md rule R501 say of one port's
elements; `present` says whether the implementation has the port. -/
structure PortInv (present : Bool) (x : PortState) : Prop where
  busy_iff : x.busy = true ↔ x.phase ≠ .idle
  busy_no_result : x.busy = true → x.done = false ∧ x.result = .ok
  absent : present = false → x.phase = .idle
  registering : x.phase = .registering → x.req.op = 1#4 ∧ x.req.exp = true
  writing : x.phase = .writing → x.req.op = 1#4
  written : x.phase = .writing → x.wlabel = .s4 → x.req.exp = false
  waiting : x.phase = .waiting → x.req.op = 1#4 ∧ x.req.exp = true
  power : x.phase = .power → x.req.op = 2#4 ∨ x.req.op = 3#4

/-- What 10_state.md rule R37 and 43_pending_table.md rules R281, R283 and R287 say of one slot. -/
structure SlotInv (s : State) (i : SlotIx) : Prop where
  free : (s.slot i).valid = false → s.slot i = Slot.free
  owner_exists : (s.slot i).valid = true → s.hasPort (s.slot i).owner = true
  owner_awaits : (s.slot i).valid = true → s.awaits (s.slot i).owner
  owner_not_done : (s.slot i).valid = true → (s.port (s.slot i).owner).respDone = false
  one_per_port : ∀ j, (s.slot i).valid = true → (s.slot j).valid = true → (s.slot i).owner = (s.slot j).owner → i = j

/-- The RX engine is inside LOCATE, or has just returned from it (45_receive_handler.md rule R363). -/
def RxLabel.reading (l : RxLabel) : Bool :=
  match l with
  | .l1 | .l2 | .l4 | .l8 | .l9 | .l10 | .l11 | .l12 | .h2 => true
  | _ => false

/-- The RX engine is between RESOLVE and the end of its run (45_receive_handler.md rule R363). -/
def RxLabel.copying (l : RxLabel) : Bool :=
  match l with
  | .b2 | .b3 | .d1 | .h4 => true
  | _ => false

/-- What 10_state.md rules R41, R42 and R44, 42_codec.md rule R241 and 45_receive_handler.md rules R363 and R369 say of
the RX engine. -/
structure RxInv (s : State) : Prop where
  idle_iff : s.rx.phase = .idle ↔ s.rx.label = .h0
  reading : s.rx.label.reading = true → s.rx.phase = .readingHeader
  copying : s.rx.label.copying = true → s.rx.phase = .copyingBody
  at_rest : s.rx.label ≠ .locOk ∧ s.rx.label ≠ .h6 ∧ s.rx.label ≠ .b1
  attempts : s.rx.a ≤ syncScanLimit
  search : s.rx.label = .l4 → s.rx.a % 4 = 0 ∧ s.rx.a < syncScanLimit
  misaligned : s.rx.label = .l8 ∨ s.rx.label = .l12 → s.rx.m ≠ 0
  aligned : s.rx.label = .l9 → s.rx.m = 0
  rem_bound : s.rx.rem ≤ 0xFFFF
  drain_bound : s.rx.drainLeft ≤ 0xFFFF
  draining : s.rx.label = .d1 → 0 < s.rx.drainLeft
  matched : s.rx.label = .b2 ∨ s.rx.label = .b3 ∨ s.rx.label = .h4 → s.rx.slot.isSome = true
  slot_valid : s.rx.label.copying = true → ∀ i, s.rx.slot = some i → (s.slot i).valid = true
  descriptor : s.rx.label = .b2 → ∀ i, s.rx.slot = some i → (s.slot i).entry.dcap ≠ 0#16
  payload : s.rx.label = .b3 → ∀ i, s.rx.slot = some i → payloadRead (s.slot i).entry s.rx.rem ≠ 0
  scratch_size : s.rx.scratch.length = s.cfg.scratchBytes

/-- The sequencer runs POWER_ON (46_power_sequencer.md rule R400). -/
def PseqStep.poweringOn (l : PseqStep) : Bool :=
  match l with
  | .pon2 | .pon3 | .pon4 | .pon5 | .pon6 => true
  | _ => false

/-- The sequencer runs POWER_OFF (46_power_sequencer.md rule R401). -/
def PseqStep.poweringOff (l : PseqStep) : Bool :=
  match l with
  | .pof2 | .pof3 | .pof4 | .pof5 | .pof6 | .pof7 | .pof8 => true
  | _ => false

/-- What 10_state.md rules R50, R51 and R56, 46_power_sequencer.md rules R402, R411 and R423 and 60_exceptions.md rule
R526 say of the sequencer. -/
structure PowerInv (s : State) : Prop where
  idle : s.pwr.step = .idle → s.pwr.state = .off ∨ s.pwr.state = .on
  on_steps : s.pwr.step.poweringOn = true → s.pwr.state = .poweringOn ∧ (s.port s.pwr.port).phase = .power
    ∧ (s.port s.pwr.port).req.op = 2#4
  off_steps : s.pwr.step.poweringOff = true → s.pwr.state = .poweringOff ∧ (s.port s.pwr.port).phase = .power
    ∧ (s.port s.pwr.port).req.op = 3#4
  at_rest : s.pwr.step ≠ .pon1 ∧ s.pwr.step ≠ .pof1
  stopped : s.pwr.state = .off ∨ s.pwr.step = .pof8 → s.pwr.stop = true
  running : s.pwr.state = .poweringOn ∨ s.pwr.state = .on → s.pwr.stop = false
  wake_width : s.pwr.wakeConfig.toNat < 2 ^ s.cfg.wcW

/-- The invariant of every run: the parameters meet their constraints, host memory is in canonical form, and every
port, every slot, the RX engine and the sequencer stand as the rules say. -/
structure State.Inv (s : State) : Prop where
  params : s.cfg.wf = true
  memory : s.mem.wf = true
  ports : ∀ p, PortInv (s.hasPort p) (s.port p)
  slots : ∀ i, SlotInv s i
  rx : RxInv s
  power : PowerInv s

end Sys2Proof.Machine
end

