-- ==== Sys2Proof/Certificates/Slice0/Obligations.lean ====
section
/-! DEFINITION. The statements for the provers. Each names the rules of the spec it formalises. A next state written as a
record update says in one equation what the step writes and that every other field, host memory among them, stays. -/

section

open Sys2Proof Sys2Proof.Machine

/-! ## Encoding -/

/-- 30_encoding.md rules R110 to R120, R126. Every well-formed operation that has a word decodes, in its own format, to
itself with every operand, and the bytes behind the word are left over; exactly the operations with a format have a
word. -/
def Obligations.DecodeEncodeRoundTrip : Prop :=
  ∀ (c : Params) (i : Instr), (encode c i).isSome = i.format.isSome ∧
    ∀ (f : Format) (bytes rest : List Byte), i.wf c = true → i.format = some f → encode c i = some bytes →
      bytes.length = 4 ∧ decode c f (bytes ++ rest) = .ok (i, rest)

/-- 30_encoding.md rules R111 to R120. What a word decodes to is well formed, has the format it was decoded in, and
encodes to that same word: no two words of a format are one operation. -/
def Obligations.EncodeDecodeRoundTrip : Prop :=
  ∀ (c : Params) (f : Format) (w : Word) (i : Instr), decodeWord c f w = .ok i →
    i.wf c = true ∧ i.format = some f ∧ encodeWord c i = some w

/-- 30_encoding.md rule R113. -/
def Obligations.PowerWords : Prop :=
  ∀ w : Word, (decodeCtrlWord w = .powerOn ↔ w &&& 0xFFFFFFFF#32 = 0x00000002#32) ∧
    (decodeCtrlWord w = .powerOff ↔ w &&& 0xFFFFFFFF#32 = 0x00000003#32)

/-- 30_encoding.md rules R111, R112 and R114: OP is the word modulo 16, RSV its bits 15 to 5. -/
def Obligations.CtrlWordsClassified : Prop :=
  ∀ w : Word,
    (decodeCtrlWord w = .illegal w ↔
      (w.toNat % 16 = 0 ∨ 4 ≤ w.toNat % 16) ∨ (w.toNat % 16 = 1 ∧ w.toNat / 32 % 2048 ≠ 0) ∨
        ((w.toNat % 16 = 2 ∨ w.toNat % 16 = 3) ∧ w.toNat / 16 ≠ 0)) ∧
    ((∃ e o, decodeCtrlWord w = .sendCommand e o) ↔ w &&& 0x0000FFEF#32 = 0x00000001#32) ∧
    ∀ e o, decodeCtrlWord w = .sendCommand e o → e = decide (w.toNat / 16 % 2 = 1) ∧ o.toNat = w.toNat / 65536

/-- Words written out from 30_encoding.md rules R112, R113, R116, R118 and R120 (in the test configuration), each with
the operation it stands for. A sanity check. -/
def Obligations.SpecWordsDecode : Prop :=
  decode Params.tc .ctrl [0x11#8, 0x00#8, 0x03#8, 0x00#8] = .ok (.sendCommand true 0x0003#16, []) ∧
  decode Params.tc .ctrl [0x02#8, 0x00#8, 0x00#8, 0x00#8] = .ok (.powerOn, []) ∧
  decode Params.tc .ctrl [0x03#8, 0x00#8, 0x00#8, 0x00#8] = .ok (.powerOff, []) ∧
  decode Params.tc .ctrl [0x21#8, 0x00#8, 0x00#8, 0x00#8] = .ok (.illegal 0x00000021#32, []) ∧
  decode Params.tc .h2n [0x21#8, 0x43#8, 0x34#8, 0x12#8] = .ok (.h2nSyncWord, []) ∧
  decode Params.tc .h2n [0x65#8, 0x87#8, 0x78#8, 0x56#8] = .ok (.h2nCnysWord, []) ∧
  decode Params.tc .n2h [0x18#8, 0x2D#8, 0x3C#8, 0x4B#8] = .ok (.n2hSyncWord false 0#2, []) ∧
  decode Params.tc .n2h [0x1F#8, 0x2D#8, 0x3C#8, 0x4B#8] = .ok (.n2hSyncWord true 3#2, []) ∧
  decode Params.tc .header [0x01#8, 0x00#8, 0x08#8, 0x00#8] = .ok (.frameHeader 0x0001#16 0x0008#16, [])

/-- 41_frame_sync.md rule R203. -/
def Obligations.SyncMatchAcceptsTwoWords : Prop :=
  ∀ (c : Params) (seq : BitVec 8), c.wf = true →
    let bare := c.n2hSync
    let sequenced := (c.n2hSync &&& 0xFFFFFFF8#32) ||| 0x4#32 ||| (seq.extractLsb' 0 2).zeroExtend 32
    bare ≠ sequenced ∧ ∀ w : Word, syncMatch c w seq = true ↔ w = bare ∨ w = sequenced

/-! ## Wire words -/

/-- 30_encoding.md rules R115, R116 and R117 with 10_state.md rule R30: the two pattern records with their four fields
in their eight bytes, and a host-to-NWP sync word going out as the last four of them, constant, in one write of the
agent that sends it; nothing else changes. Only a port that exists sends the one, only the RX engine the other. That
the word alone is a step is the model's choice (log entry 13). 10_state.md rule R30 gives the implementation NUM_PORTS
ports; that H2N_SYNC_WORD alone, asked of the move of a port that does not exist or of an agent that is no port, is no
step and leaves the state as it is, is the model's choice (log entries 8, 13 and 27). -/
def Obligations.HostSyncWordsTransmitted : Prop :=
  (h2nSyncPattern.record = [0xFF#8, 0xEE#8, 0xDD#8, 0xBB#8, 0x21#8, 0x43#8, 0x34#8, 0x12#8] ∧
    h2nCnysPattern.record = [0xFF#8, 0xEE#8, 0xDD#8, 0xBB#8, 0x65#8, 0x87#8, 0x78#8, 0x56#8]) ∧
  ∀ s : State,
    (∀ p, s.nextMove = .port p → s.hasPort p = true → exec .h2nSyncWord s =
      .next { s with history := s.history ++ [.tx (.port p) (h2nSyncPattern.record.drop 4)] }) ∧
    ((∀ p, s.nextMove = .port p → s.hasPort p = false) → exec .h2nSyncWord s = .next s) ∧
    exec .h2nCnysWord s =
      .next { s with history := s.history ++ [.tx .rx (h2nCnysPattern.record.drop 4)] }

/-- 30_encoding.md rules R118 and R119 with 41_frame_sync.md rules R200, R201, R206, R210, R211, R220 and R222 and
20_memory.md rule R95: what LOCATE does with an N2H sync word, bare or sequenced, at each of its reads that takes one.
At the first read (L2) a word with no sequence number, or the right one, ends the search at offset 0; one with another
sequence number does not. In the skip loop (L9, L10) an accepted word is passed over, and one that is not accepted is
word A, which ends the loop. At L4 the word comes after the three bytes left of the window's old word: the search takes
the first of the three candidates that begin in them, and the word itself only where none of the three matches and fewer
than 40 offsets have been tested. That the search's shifts and tests, and the increment of tx_seq_num after word A, fall
in the step of the read before them is the model's reading of rule R95 (log entry 11). Labels are the model's names (log
entry 14); that the word alone is a step is the model's choice (log entry 13). -/
def Obligations.N2hSyncWordAnswersLocate : Prop :=
  ∀ (s : State) (seqSet : Bool) (seq : BitVec 2), s.cfg.wf = true → (seqSet = false → seq = 0#2) →
    let w := n2hSyncValue s.cfg seqSet seq
    let b0 := w.extractLsb' 0 8
    let b1 := w.extractLsb' 8 8
    let b2 := w.extractLsb' 16 8
    let b3 := w.extractLsb' 24 8
    let read := fun (x : RxState) =>
      { s with consumed := s.consumed + 4, history := s.history ++ [.rx .rx [b0, b1, b2, b3]], rx := x }
    let win := { s.rx.window with w0 := b0, w1 := b1, w2 := b2, w3 := b3 }
    let accepted := seqSet = false ∨ seq = s.txSeqNum.extractLsb' 0 2
    let answers := fun (t : State) => exec (.n2hSyncWord seqSet seq) s = .next t
    let old := s.rx.window
    let matches_ := fun (c : Word) => syncMatch s.cfg c s.txSeqNum = true
    let c1 := le32 old.w1 old.w2 old.w3 b0
    let c2 := le32 old.w2 old.w3 b0 b1
    let c3 := le32 old.w3 b0 b1 b2
    let found := fun (m : Fin 4) (x : Window) => { s.rx with window := x, a := s.rx.a + m.val, m := m, label := .l8 }
    let shifted : Window :=
      { w0 := b0, w1 := b1, w2 := b2, w3 := b3, w4 := 0#8, w5 := 0#8, w6 := 0#8, w7 := 0#8 }
    (s.rx.label = .l2 → accepted → answers (read { s.rx with window := win, a := 0, m := 0, label := .l9 })) ∧
    (s.rx.label = .l2 → ¬accepted → answers (read { s.rx with window := win, a := 0, label := .l4 })) ∧
    (s.rx.label = .l9 ∨ s.rx.label = .l10 → accepted → answers (read { s.rx with window := win, label := .l10 })) ∧
    (s.rx.label = .l9 ∨ s.rx.label = .l10 → ¬accepted →
      answers { read { s.rx with window := win, label := .l11 } with txSeqNum := s.txSeqNum + 1#8 }) ∧
    (s.rx.label = .l4 → s.rx.a % 4 = 0 → s.rx.a < 40 →
      (matches_ c1 → answers (read (found 1
        { w0 := b1, w1 := b2, w2 := b3, w3 := 0#8, w4 := b1, w5 := b2, w6 := b3, w7 := 0#8 }))) ∧
      (¬matches_ c1 → matches_ c2 → answers (read (found 2
        { w0 := b2, w1 := b3, w2 := 0#8, w3 := 0#8, w4 := b2, w5 := b3, w6 := 0#8, w7 := 0#8 }))) ∧
      (¬matches_ c1 → ¬matches_ c2 → matches_ c3 → answers (read (found 3
        { w0 := b3, w1 := 0#8, w2 := 0#8, w3 := 0#8, w4 := b3, w5 := 0#8, w6 := 0#8, w7 := 0#8 }))) ∧
      (¬matches_ c1 → ¬matches_ c2 → ¬matches_ c3 →
        (s.rx.a + 4 < 40 → accepted →
          answers (read { s.rx with window := shifted, a := s.rx.a + 4, m := 0, label := .l9 })) ∧
        (s.rx.a + 4 < 40 → ¬accepted →
          answers (read { s.rx with window := shifted, a := s.rx.a + 4, label := .l4 })) ∧
        (s.rx.a + 4 = 40 → answers (read { s.rx with window := shifted, a := 40, label := .h6 }))))

/-- 30_encoding.md rule R120, both directions, with 41_frame_sync.md rules R200, R212 and R213 and 10_state.md rule
R30. A port that exists sends the header's four bytes; at LOCATE's L11 the same four bytes are taken into W[4..7],
where they read back as the opcode and the length; the filler of L12 comes next exactly where m is not 0, and else
LOCATE has returned, for which label `locOk` is the model's name (log entry 14). That the header alone is a step is
the model's choice (log entry 13). 10_state.md rule R30 gives the implementation NUM_PORTS ports; that the header,
asked of the move of a port that does not exist, is no step and leaves the state as it is, is the model's choice (log
entries 8 and 27). -/
def Obligations.FrameHeaderBothWays : Prop :=
  ∀ (s : State) (opcode length : Half),
    let bytes := [opcode.extractLsb' 0 8, opcode.extractLsb' 8 8, length.extractLsb' 0 8, length.extractLsb' 8 8]
    (∀ p, s.nextMove = .port p → s.hasPort p = true → exec (.frameHeader opcode length) s =
      .next { s with history := s.history ++ [.tx (.port p) bytes] }) ∧
    (∀ p, s.nextMove = .port p → s.hasPort p = false → exec (.frameHeader opcode length) s = .next s) ∧
    (s.nextMove = .rx → s.rx.label = .l11 → ∃ win : Window,
      win.headerOpcode = opcode ∧ win.headerLength = length ∧
      win = { s.rx.window with w4 := win.w4, w5 := win.w5, w6 := win.w6, w7 := win.w7 } ∧
      exec (.frameHeader opcode length) s =
        .next { s with
          consumed := s.consumed + 4
          history := s.history ++ [.rx .rx bytes]
          rx := { s.rx with window := win, label := if s.rx.m = 0 then .locOk else .l12 } })

/-! ## LOCATE -/

/-- 41_frame_sync.md rules R200, R204, R206, R208, R209, R212 and 20_memory.md rule R95: L1 sends the CNYS word. Every
other step of LOCATE is one transport read of the size its label names, and writes only the RX engine's window, counters
and position, tx_seq_num, the stream position and the history. Which internal updates a step includes is log entry 11.
-/
def Obligations.LocateSteps : Prop :=
  (∀ s : State, s.rx.label = .l1 → exec .locate s =
    .next { s with
      history := s.history ++ [.tx .rx [0x65#8, 0x87#8, 0x78#8, 0x56#8]]
      rx := { s.rx with label := .l2 } }) ∧
  ∀ (s : State) (n : Nat),
    (s.rx.label = .l2 ∨ s.rx.label = .l4 ∨ s.rx.label = .l9 ∨ s.rx.label = .l10 ∨ s.rx.label = .l11) ∧ n = 4 ∨
      s.rx.label = .l8 ∧ n = s.rx.m.val ∨ s.rx.label = .l12 ∧ n = (if s.rx.m = 0 then 0 else 4 - s.rx.m.val) →
    ∃ t, exec .locate s = .next t ∧
      t = { s with
        inbound := s.inbound.drop n
        consumed := s.consumed + n
        history := s.history ++ [.rx .rx (s.streamAt 0 n)]
        txSeqNum := t.txSeqNum
        rx := { s.rx with label := t.rx.label, window := t.rx.window, a := t.rx.a, m := t.rx.m } }

/-- 41_frame_sync.md rule R207: where no offset from 0 to 39 holds an accepted word, LOCATE's twelve steps consume 44
bytes in reads of four, send four, leave tx_seq_num, put S[40..43] and zeros in the window, and return SyncTimeout
(label `h6`). The label is the model's name for that result (log entry 14). -/
def Obligations.LocateTimesOut : Prop :=
  ∀ s : State, s.rx.label = .l1 → (∀ j, j < 40 → s.acceptsAt j = false) →
    repeatExec .locate 12 s =
      .next { s with
        inbound := s.inbound.drop 44
        consumed := s.consumed + 44
        history := s.history ++ [.tx .rx [0x65#8, 0x87#8, 0x78#8, 0x56#8]]
          ++ (List.range 11).map fun r => .rx .rx (s.streamAt (4 * r) 4)
        rx := { s.rx with
          label := .h6
          a := 40
          window := { s.windowAt 40 with w4 := 0#8, w5 := 0#8, w6 := 0#8, w7 := 0#8 } } }

/-- 41_frame_sync.md rules R213 to R216: with the first accepted word at offset g < 40 and k accepted words right behind
it, LOCATE takes the steps of rule R216, consumes g + 12 + 4k + f bytes (a multiple of 4), sends four, and returns with
word A and the header in the window, tx_seq_num one higher. Label `locOk` is the model's name for that result (log entry
14). -/
def Obligations.LocateSucceeds : Prop :=
  ∀ (s : State) (g k : Nat), s.rx.label = .l1 → s.syncAt g k →
    let n := g + 12 + 4 * k + fillerAfter g
    n % 4 = 0 ∧ ∃ t, repeatExec .locate (locateSteps g k) s = .next t ∧
      t.outbound = s.outbound ++ [0x65#8, 0x87#8, 0x78#8, 0x56#8] ∧
      t = { s with
        inbound := s.inbound.drop n
        consumed := s.consumed + n
        history := t.history
        txSeqNum := s.txSeqNum + 1#8
        rx := { s.rx with
          label := .locOk
          a := g
          m := Fin.ofNat 4 g
          window := s.windowAt (g + 4 + 4 * k) } }

/-! ## WRITE_COMMAND -/

/-- 42_codec.md rules R240, R250, R251 and R252 with 44_dispatcher.md rules R321 and R329 and 20_memory.md rule R95:
WRITE_COMMAND's steps one by one. W1 sends the sync word, W2 the header; a sent segment goes out in one step with the
bytes that stand in host memory at that step, padded with zeros. The port then stands at the next segment that is sent;
after the last write its phase is WAITING where a response is expected, and else it stands at S4. Nothing but that
position and the history changes. The order of the two events is log entry 18; the labels are log entry 14. -/
def Obligations.WriteCommandSteps : Prop :=
  ∀ (s : State) (p : Port), s.hasPort p = true → (s.port p).phase = .writing →
    let r := (s.port p).req
    let next := fun (at_ : Phase × WriteLabel) (es : List Event) => exec (.writeCommand p) s =
      .next { s.setPort p { s.port p with phase := at_.1, wlabel := at_.2 } with history := s.history ++ es }
    let segment := fun (g : Segment) (at_ : Phase × WriteLabel) => g.present = true → 0 < g.len.toNat →
      admitted s.cfg g.base.toNat g.len.toNat = true → next at_
        [.memr (.port p) g.base.toNat (s.mem.read g.base.toNat g.len.toNat),
          .tx (.port p) (s.mem.read g.base.toNat g.len.toNat
            ++ List.replicate (align4 g.len.toNat - g.len.toNat) 0#8)]
    ((s.port p).wlabel = .w1 → r.bodyLength ≤ 0xFFFF →
      next (.writing, .w2) [.tx (.port p) [0x21#8, 0x43#8, 0x34#8, 0x12#8]]) ∧
    ((s.port p).wlabel = .w2 →
      next (r.standsAfter .w2 [(r.seg0, .w3), (r.seg1, .w4), (r.seg2, .w5)])
        [.tx (.port p) (bytes16 r.cmdOpcode ++ bytes16 (BitVec.ofNat 16 r.bodyLength))]) ∧
    ((s.port p).wlabel = .w3 → segment r.seg0 (r.standsAfter .w3 [(r.seg1, .w4), (r.seg2, .w5)])) ∧
    ((s.port p).wlabel = .w4 → segment r.seg1 (r.standsAfter .w4 [(r.seg2, .w5)])) ∧
    ((s.port p).wlabel = .w5 → segment r.seg2 (r.standsAfter .w5 []))

/-- 30_encoding.md rule R121 with 42_codec.md rules R240, R250, R251 and 44_dispatcher.md rule R334: from W1, with L at
most 0xFFFF and every sent segment admitted, WRITE_COMMAND takes 2 + s steps, and what they send is the command frame.
The port then waits where a response is expected, and else stands at S4. -/
def Obligations.WriteCommandEmitsFrame : Prop :=
  ∀ (s : State) (p : Port), s.hasPort p = true → (s.port p).phase = .writing → (s.port p).wlabel = .w1 →
    (s.port p).req.bodyLength ≤ 0xFFFF → (s.port p).req.admittedSegments s.cfg →
    let r := (s.port p).req
    ∃ t l, repeatExec (.writeCommand p) (2 + r.sentCount) s = .next t ∧
      t.outbound = s.outbound ++ r.frame s.mem ∧
      (r.exp = false → l = .s4) ∧
      t = { s.setPort p { s.port p with phase := if r.exp then .waiting else .writing, wlabel := l } with
        history := t.history }

/-- 42_codec.md rule R253, for three sent segments of lengths d, h and p, over the frame of 30_encoding.md rule R121. -/
def Obligations.FrameAlignment : Prop :=
  ∀ (r : Request) (m : Memory), r.seg0.sent = true → r.seg1.sent = true → r.seg2.sent = true →
    let d := r.seg0.len.toNat
    let h := r.seg1.len.toNat
    let p := r.seg2.len.toNat
    let frame := r.frame m
    let from_ := fun o n => (frame.drop o).take n
    r.bodyLength = align4 d + align4 h + align4 p ∧ r.bodyLength % 4 = 0 ∧ frame.length = 8 + r.bodyLength ∧
      8 % 4 = 0 ∧ (8 + align4 d) % 4 = 0 ∧ (8 + align4 d + align4 h) % 4 = 0 ∧
      from_ 8 d = m.read r.seg0.base.toNat d ∧
      from_ (8 + align4 d) h = m.read r.seg1.base.toNat h ∧
      from_ (8 + align4 d + align4 h) p = m.read r.seg2.base.toNat p

/-- 42_codec.md rule R240 and 93_implementation_defined.md I5: an operation is refused only where it is
WRITE_COMMAND's step W1 with L above 0xFFFF, alone or inside the SEND_COMMAND that a step runs, and there it is. No
operation of the table stops in any other way. That the refusal falls at W1 is the model's reading (log entry 10). -/
def Obligations.RefusedOnlyForLength : Prop :=
  (∀ (s : State) (p : Port), s.hasPort p = true → (s.port p).phase = .writing → (s.port p).wlabel = .w1 →
    0xFFFF < (s.port p).req.bodyLength →
    exec (.writeCommand p) s = .refused .lengthOverflow ∧
    (s.nextMove = .port p → ∀ e o, exec (.sendCommand e o) s = .refused .lengthOverflow) ∧
    (s.nextMove = .port p → (s.port p).req.op = 1#4 → step s = .refused .lengthOverflow)) ∧
  ∀ (i : Instr) (s : State), (∃ t, exec i s = .next t) ∨
    exec i s = .refused .lengthOverflow ∧ ∃ p, s.hasPort p = true ∧ (s.port p).phase = .writing ∧
      (s.port p).wlabel = .w1 ∧ 0xFFFF < (s.port p).req.bodyLength ∧
      (i = .writeCommand p ∨ ∃ e o, i = .sendCommand e o ∧ s.nextMove = .port p)

/-- 20_memory.md rule R84: a port whose segment is not admitted, and an RX engine whose response buffer is not, never
moves again. Its own operation has no step, however often it is named, so no byte is read or written and no transport
call happens; and no step of any agent moves it: the port keeps its phase, its position and its in-flight record, the RX
engine all of its state and its slot, and the parameters stay, so that it is stuck after the step as before. Staging
registers and resp_done are not the port's own to keep. An agent without a step is left as it is when it is named (log
entries 8 and 9). -/
def Obligations.UnadmittedAccessIsStuck : Prop :=
  (∀ (s : State) (p : Port) (g : Segment), s.hasPort p = true → (s.port p).phase = .writing →
    (s.port p).wlabel = .w3 ∧ g = (s.port p).req.seg0 ∨ (s.port p).wlabel = .w4 ∧ g = (s.port p).req.seg1 ∨
      (s.port p).wlabel = .w5 ∧ g = (s.port p).req.seg2 →
    g.sent = true → admitted s.cfg g.base.toNat g.len.toNat = false →
    (∀ n, repeatExec (.writeCommand p) n s = .next s) ∧
    (s.nextMove = .port p → ∀ e o n, repeatExec (.sendCommand e o) n s = .next s) ∧
    (s.Inv → s.nextMove = .port p →
      step s = .next { s with moves := s.moves.tail, moveCount := s.moveCount + 1 }) ∧
    (s.Inv → ∀ t, step s = .next t → t.cfg = s.cfg ∧
      t.port p = { s.port p with
        staging := (t.port p).staging, rsv := (t.port p).rsv, respDone := (t.port p).respDone })) ∧
  ∀ (s : State) (i : SlotIx), s.rx.slot = some i →
    s.rx.label = .b2 ∧ admitted s.cfg (s.slot i).entry.dbase.toNat (s.slot i).entry.dcap.toNat = false ∨
      s.rx.label = .b3 ∧
        admitted s.cfg (s.slot i).entry.pbase.toNat (payloadRead (s.slot i).entry s.rx.rem) = false →
    (∀ n, repeatExec .onNwpIrq n s = .next s ∧ repeatExec .readResponseBody n s = .next s) ∧
    (s.nextMove = .rx → step s = .next { s with moves := s.moves.tail, moveCount := s.moveCount + 1 }) ∧
    (s.Inv → ∀ t, step s = .next t → t.cfg = s.cfg ∧ t.rx = s.rx ∧ t.slot i = s.slot i)

/-! ## READ_RESPONSE_BODY and DRAIN -/

/-- 42_codec.md rule R243, one step: at most SCRATCH_BYTES bytes are taken into the scratch buffer, and n less that many
are left; DRAIN(0) reads nothing. What is left is kept in the model's own field drainLeft (log entry 14). -/
def Obligations.DrainStep : Prop :=
  ∀ (s : State) (n : Nat),
    (n = 0 → exec (.drain n) s = .next { s with rx := { s.rx with drainLeft := 0 } }) ∧
    (0 < n → ∃ c, c = (if n < s.cfg.scratchBytes then n else s.cfg.scratchBytes) ∧
      exec (.drain n) s = .next { s with
        inbound := s.inbound.drop c
        consumed := s.consumed + c
        history := s.history ++ [.rx .rx (s.streamAt 0 c)]
        rx := { s.rx with
          drainLeft := n - c
          scratch := s.streamAt 0 c ++ s.rx.scratch.drop c } })

/-- 42_codec.md rules R242 and R248 with 20_memory.md rules R83, R84 and R95: the descriptor step and the payload step
of READ_RESPONSE_BODY. Each reads the bytes its rule names, stores them in stream order from the buffer's first
address on, and stores nothing else: every byte outside the buffer reads as before. That the step's RX event comes
before its MEMW event, as in 95_test_vectors.md V-RXH-1, is the model's reading (log entry 18). -/
def Obligations.BodyStoreStep : Prop :=
  ∀ (s : State) (i : SlotIx) (addr n : Nat), s.mem.wf = true → s.rx.slot = some i →
    s.rx.label = .b2 ∧ addr = (s.slot i).entry.dbase.toNat ∧ n = (s.slot i).entry.dcap.toNat ∨
      s.rx.label = .b3 ∧ addr = (s.slot i).entry.pbase.toNat ∧ n = payloadBytes (s.slot i).entry s.rx.rem →
    admitted s.cfg addr n = true →
    ∃ t, exec .readResponseBody s = .next t ∧ exec .onNwpIrq s = .next t ∧
      (∀ j, j < n → t.mem.get (addr + j) = s.streamByte j) ∧
      (∀ a, a < addr ∨ addr + n ≤ a → t.mem.get a = s.mem.get a) ∧
      t = { s with
        mem := t.mem
        inbound := s.inbound.drop n
        consumed := s.consumed + n
        cntOverflow := t.cntOverflow
        history := s.history ++ [.rx .rx (s.streamAt 0 n), .memw .rx addr (s.streamAt 0 n)]
        rx := { s.rx with label := t.rx.label, rem := t.rx.rem, drainLeft := t.rx.drainLeft } }

/-- 42_codec.md rules R241, R247, R248, R249 and R254. With s = NONE the body is counted once as NoPendingMatch and
consumed to the byte. With s a slot: how many bytes are consumed, what is written to host memory and where, when the
overflow is counted, and in how many steps (one more than rule R254's, for B1, which is a step of its own only here,
where the operation is run alone, and belongs to the RESOLVE step in a run of the handler: log entries 12 and 14). -/
def Obligations.ResponseBodyConsumed : Prop :=
  (∀ s : State, s.cfg.wf = true → s.rx.label = .b1 → s.rx.slot = none →
    let n := s.rx.len.toNat
    ∃ t, repeatExec .readResponseBody (1 + drainSteps s.cfg n) s = .next t ∧
      t = { s with
        inbound := s.inbound.drop n
        consumed := s.consumed + n
        cntNoMatch := s.cntNoMatch + 1#32
        history := t.history
        rx := { s.rx with label := .h5, drainLeft := t.rx.drainLeft, scratch := t.rx.scratch } }) ∧
  ∀ (s : State) (i : SlotIx), s.cfg.wf = true → s.mem.wf = true → s.rx.label = .b1 → s.rx.slot = some i →
    let e := (s.slot i).entry
    let d := e.dcap.toNat
    let rem0 := s.rx.len.toNat - d
    let p := payloadBytes e rem0
    let o := overflowBytes e rem0
    admitted s.cfg e.dbase.toNat d = true → admitted s.cfg e.pbase.toNat p = true →
    ∃ t, repeatExec .readResponseBody
        (1 + (if 0 < d then 1 else 0) + (if 0 < p then 1 else 0) + drainSteps s.cfg o) s = .next t ∧
      s.rx.len.toNat ≤ d + p + o ∧
      (rem0 < payloadCap e → p + o = align4 rem0) ∧ (payloadCap e ≤ rem0 → p + o = rem0) ∧
      t.mem = (s.mem.write e.dbase.toNat (s.streamAt 0 d)).write e.pbase.toNat (s.streamAt d p) ∧
      (∀ a, a < e.dbase.toNat ∨ e.dbase.toNat + d ≤ a → a < e.pbase.toNat ∨ e.pbase.toNat + p ≤ a →
        t.mem.get a = s.mem.get a) ∧
      t = { s with
        mem := t.mem
        inbound := s.inbound.drop (d + p + o)
        consumed := s.consumed + (d + p + o)
        cntOverflow := if 0 < o then s.cntOverflow + 1#32 else s.cntOverflow
        history := t.history
        rx := { s.rx with label := .h4, rem := t.rx.rem, drainLeft := t.rx.drainLeft, scratch := t.rx.scratch } }

/-! ## The Pending-Request Table -/

/-- 43_pending_table.md rules R280, R281, R285, R288 and R289: REGISTER takes the least free slot, whatever opcodes the
other slot holds, and clears resp_done, in one step; while no slot is free it has no step. An operation without a step
leaves the state as it is (log entry 8). -/
def Obligations.RegisterTakesLeastFreeSlot : Prop :=
  ∀ (s : State) (p : Port) (e : Entry), s.hasPort p = true →
    (∀ i : SlotIx, (s.slot i).valid = false → (∀ j, j < i → (s.slot j).valid = true) →
      exec (.register p e) s = .next
        ((s.setSlot i { valid := true, entry := e, owner := p }).setPort p { s.port p with respDone := false })) ∧
    ((∀ i : SlotIx, (s.slot i).valid = true) → exec (.register p e) s = .next s)

/-- 43_pending_table.md rules R282 and R285 with 93_implementation_defined.md I1: RESOLVE writes rx_slot only (and takes
one draw); its result is a valid slot with the opcode, NONE exactly where there is none, and under some draw it is any
such slot. The tape of draws is the model's (log entry 4). -/
def Obligations.ResolveDrawsAMatch : Prop :=
  ∀ (s : State) (op : Half),
    (∃ r, exec (.resolve op) s =
      .next { s with draws := s.draws.tail, drawCount := s.drawCount + 1, rx := { s.rx with slot := r } } ∧
      (∀ i, r = some i → (s.slot i).valid = true ∧ (s.slot i).entry.expectedOpcode = op) ∧
      (r = none → ∀ i, (s.slot i).valid = true → (s.slot i).entry.expectedOpcode ≠ op)) ∧
    ∀ i, (s.slot i).valid = true → (s.slot i).entry.expectedOpcode = op → ∃ d t,
      exec (.resolve op) { s with draws := [d] } = .next t ∧ t.rx.slot = some i

/-- 43_pending_table.md rule R283 and 10_state.md rule R38: REMOVE clears the slot and nothing else; the count falls by
one. -/
def Obligations.RemoveFreesSlot : Prop :=
  ∀ (s : State) (i : SlotIx), (s.slot i).valid = true → ∃ t, exec (.remove i) s = .next t ∧
    t.slot i = { valid := false, owner := 0, entry :=
      { expectedOpcode := 0#16, dbase := 0#32, dcap := 0#16, ppresent := false, pbase := 0#32, pcap := 0#16 } } ∧
    (∀ j, j ≠ i → t.slot j = s.slot j) ∧ t.ptCount + 1 = s.ptCount ∧ t = { s with slots := t.slots }

/-- 43_pending_table.md rule R287 with 10_state.md rule R38, over every step of every agent: whatever the step did to
the table, each port then owns at most one valid slot, and the count is at most the smaller of CAP and NUM_PORTS. -/
def Obligations.OneSlotPerPort : Prop :=
  ∀ s t : State, s.Inv → step s = .next t →
    (∀ i j : SlotIx, (t.slot i).valid = true → (t.slot j).valid = true → (t.slot i).owner = (t.slot j).owner → i = j) ∧
    t.ptCount ≤ min 2 t.cfg.numPorts

/-! ## Submission and completion -/

/-- 44_dispatcher.md rules R320 and R325. At an idle port the staging registers are latched, DONE and RESULT cleared,
and the operation the word selects is started. At a busy port the fields are stored and nothing else changes, the
in-flight record included. RSV is kept beside the staging registers (log entry 16). -/
def Obligations.SubmitAcceptsOrStores : Prop :=
  ∀ (s : State) (p : Port) (v : Word), s.hasPort p = true →
    let r := s.stagedWith p v
    ((s.port p).busy = false →
      (∀ e o, decodeCtrlWord v = .sendCommand e o → exec (.submit p v) s =
        .next (s.setPort p { s.port p with
          rsv := ctrlRsv v, staging := r, req := r, done := false, result := .ok, busy := true
          phase := if e then .registering else .writing, wlabel := .w1 })) ∧
      (decodeCtrlWord v = .powerOn ∨ decodeCtrlWord v = .powerOff → exec (.submit p v) s =
        .next (s.setPort p { s.port p with
          rsv := ctrlRsv v, staging := r, req := r, done := false, result := .ok, busy := true, phase := .power })) ∧
      (decodeCtrlWord v = .illegal v → exec (.submit p v) s =
        .next (s.setPort p { s.port p with
          rsv := ctrlRsv v, staging := r, req := r, done := true, result := .illegalOp, busy := false
          phase := .idle }))) ∧
    ((s.port p).busy = true → exec (.submit p v) s =
      .next (s.setPort p { s.port p with rsv := ctrlRsv v, staging := r }))

/-- 44_dispatcher.md rule R324: the host's CTRL write of an illegal word to an idle port completes at once with
ILLEGAL_OP. Nothing but that port changes; the operation is the submission of the word. RSV is kept beside the staging
registers (log entry 16). -/
def Obligations.IllegalCompletesAtOnce : Prop :=
  ∀ (s : State) (p : Port) (w : Word) (addr : Word), isIllegal w = true → s.hasPort p = true →
    s.nextMove = .host (.write addr .word w) → addr.toNat = s.cfg.base.toNat + 0x40 * p.val →
    exec (.illegal w) s = exec (.submit p w) s ∧
    ((s.port p).busy = false → exec (.illegal w) s =
      .next (s.setPort p { s.port p with
        rsv := ctrlRsv w, staging := s.stagedWith p w, req := s.stagedWith p w
        busy := false, done := true, result := .illegalOp, phase := .idle })) ∧
    ((s.port p).busy = true → exec (.illegal w) s =
      .next (s.setPort p { s.port p with rsv := ctrlRsv w, staging := s.stagedWith p w }))

/-- 44_dispatcher.md rule R323: COMPLETE writes BUSY, DONE, RESULT and phase of its port and nothing else. -/
def Obligations.CompleteEndsOperation : Prop :=
  ∀ (s : State) (p : Port) (r : Result), s.hasPort p = true → ∃ t, exec (.complete p r) s = .next t ∧
    t.port p = { s.port p with busy := false, done := true, result := r, phase := .idle } ∧
    (∀ q, q ≠ p → t.port q = s.port q) ∧ t = { s with ports := t.ports }

/-! ## SEND_COMMAND -/

/-- 44_dispatcher.md rules R321 and R322 with 43_pending_table.md rule R288. In phase WAITING the port has a step only
when resp_done is 1, and that step is COMPLETE(p, OK). In phase REGISTERING it has none while the table is full. A port
without a step is left as it is when it is named (log entry 8). -/
def Obligations.SendWaits : Prop :=
  ∀ (s : State) (p : Port) (e : Bool) (o : Half), s.nextMove = .port p → s.hasPort p = true →
    ((s.port p).phase = .waiting → (s.port p).respDone = true → exec (.sendCommand e o) s =
      .next (s.setPort p { s.port p with busy := false, done := true, result := .ok, phase := .idle })) ∧
    ((s.port p).phase = .waiting → (s.port p).respDone = false → ∀ n, repeatExec (.sendCommand e o) n s = .next s) ∧
    ((s.port p).phase = .registering → (∀ i : SlotIx, (s.slot i).valid = true) →
      ∀ n, repeatExec (.sendCommand e o) n s = .next s)

/-- 44_dispatcher.md rules R329 and R334, EXP = 0: from its submission a SEND_COMMAND takes 2 + s write steps and one
COMPLETE step, registers nothing, and leaves the command frame on the outbound stream. -/
def Obligations.SendWithoutResponseRuns : Prop :=
  ∀ (s : State) (p : Port), s.nextMove = .port p → s.hasPort p = true → (s.port p).phase = .writing →
    (s.port p).wlabel = .w1 → (s.port p).req.exp = false → (s.port p).req.bodyLength ≤ 0xFFFF →
    (s.port p).req.admittedSegments s.cfg →
    let r := (s.port p).req
    ∃ t, repeatExec (.sendCommand false r.cmdOpcode) (2 + r.sentCount + 1) s = .next t ∧
      t.outbound = s.outbound ++ r.frame s.mem ∧
      t = { s.setPort p { s.port p with
          busy := false, done := true, result := .ok, phase := .idle, wlabel := .s4 } with
        history := t.history }

/-- 44_dispatcher.md rules R321 and R334 with 43_pending_table.md rule R281, EXP = 1: with a free slot, one REGISTER
step and 2 + s write steps take the port from its submission to WAITING, with its request in the least free slot and
its frame sent. The REGISTER step clears resp_done; no other step of a SEND_COMMAND writes the resp_done of any port.
-/
def Obligations.SendWithResponseRuns : Prop :=
  (∀ (s : State) (p : Port) (i : SlotIx), s.nextMove = .port p → s.hasPort p = true →
    (s.port p).phase = .registering → (s.port p).req.exp = true → (s.port p).req.bodyLength ≤ 0xFFFF →
    (s.port p).req.admittedSegments s.cfg → (s.slot i).valid = false → (∀ j, j < i → (s.slot j).valid = true) →
    let r := (s.port p).req
    (∃ u, exec (.sendCommand true r.cmdOpcode) s = .next u ∧
      (u.port p).phase = .writing ∧ (u.port p).respDone = false) ∧
    ∃ t l, repeatExec (.sendCommand true r.cmdOpcode) (1 + (2 + r.sentCount)) s = .next t ∧
      t.outbound = s.outbound ++ r.frame s.mem ∧
      t = { (s.setSlot i { valid := true, owner := p, entry :=
            { expectedOpcode := r.expOpcode, dbase := r.rdescBase, dcap := r.rdescCap
              ppresent := r.rpayPresent, pbase := r.rpayBase, pcap := r.rpayCap } }).setPort p
          { s.port p with respDone := false, phase := .waiting, wlabel := l } with
        history := t.history }) ∧
  ∀ (s t : State) (p : Port) (e : Bool) (o : Half), s.nextMove = .port p → (s.port p).phase ≠ .registering →
    exec (.sendCommand e o) s = .next t → ∀ q, (t.port q).respDone = (s.port q).respDone

/-! ## The interrupt and the Receive Handler -/

/-- 60_exceptions.md rules R514 and R515 with 45_receive_handler.md rules R360, R362, R364 and R365. Entry, step H0,
happens exactly when an IRQ is pending, unmasked and no run is in progress. Return, step H5, clears the mask whatever it
was and leaves irq_pending. Neither saves or restores anything. An RX engine without a step is left as it is when it is
named (log entry 8). -/
def Obligations.IrqEntryAndReturn : Prop :=
  (∀ s : State, s.rx.label = .h0 →
    (s.irqPending = true → s.irqMask = false → s.rx.phase = .idle → exec .onNwpIrq s =
      .next { s with
        irqPending := false
        irqMask := true
        history := s.history ++ [.level .irqMask true]
        rx := { s.rx with phase := .readingHeader, label := .l1 } }) ∧
    (s.irqPending = false ∨ s.irqMask = true ∨ s.rx.phase ≠ .idle → exec .onNwpIrq s = .next s)) ∧
  ∀ s : State, s.rx.label = .h5 → exec .onNwpIrq s =
    .next { s with
      irqMask := false
      history := s.history ++ [.level .irqMask false]
      rx := { s.rx with phase := .idle, label := .h0 } }

/-- 45_receive_handler.md rule R360 step H4 with 43_pending_table.md rules R280 and R284: resp_done of the owner is set
and the slot is freed in one step; the other slot and the other ports stay as they are. -/
def Obligations.HandlerCompletesOwner : Prop :=
  ∀ (s : State) (i : SlotIx), s.rx.label = .h4 → s.rx.slot = some i → exec .onNwpIrq s =
    .next { (s.setPort (s.slot i).owner { s.port (s.slot i).owner with respDone := true }).setSlot i
        { valid := false, owner := 0, entry :=
          { expectedOpcode := 0#16, dbase := 0#32, dcap := 0#16, ppresent := false, pbase := 0#32, pcap := 0#16 } } with
      rx := { s.rx with label := .h5 } }

/-- 45_receive_handler.md rules R361 and R373: a run that finds no sync word takes 14 steps from H0. It sets the sticky
bit, counts one SyncTimeout, moves the stream on by 44 bytes and leaves the line unmasked; ports, slots, host memory and
tx_seq_num are as before. -/
def Obligations.SyncTimeoutRun : Prop :=
  ∀ s : State, s.rx.label = .h0 → s.rx.phase = .idle → s.irqPending = true → s.irqMask = false →
    (∀ j, j < 40 → s.acceptsAt j = false) →
    ∃ t, repeatExec .onNwpIrq 14 s = .next t ∧
      t.outbound = s.outbound ++ [0x65#8, 0x87#8, 0x78#8, 0x56#8] ∧
      t = { s with
        irqPending := false
        irqMask := false
        syncTimeoutSticky := true
        cntSyncTimeout := s.cntSyncTimeout + 1#32
        inbound := s.inbound.drop 44
        consumed := s.consumed + 44
        history := t.history
        rx := { s.rx with
          a := 40
          window := { s.windowAt 40 with w4 := 0#8, w5 := 0#8, w6 := 0#8, w7 := 0#8 } } }

/-- 45_receive_handler.md rules R360, R366 and R373 with 42_codec.md rule R247: a run on a frame whose opcode no valid
slot holds takes the steps of rule R373, consumes the frame and its body to the byte, counts one NoPendingMatch, and
completes no request. The tape of draws is the model's (log entry 4). -/
def Obligations.UnsolicitedFrameRun : Prop :=
  ∀ (s : State) (g k : Nat), s.cfg.wf = true → s.rx.label = .h0 → s.rx.phase = .idle → s.irqPending = true →
    s.irqMask = false → s.syncAt g k →
    let head := s.windowAt (g + 4 + 4 * k)
    let len := head.headerLength.toNat
    (∀ i, (s.slot i).valid = true → (s.slot i).entry.expectedOpcode ≠ head.headerOpcode) →
    ∃ t, repeatExec .onNwpIrq (1 + locateSteps g k + 1 + drainSteps s.cfg len + 1) s = .next t ∧
      t = { s with
        irqPending := false
        irqMask := false
        txSeqNum := s.txSeqNum + 1#8
        cntNoMatch := s.cntNoMatch + 1#32
        inbound := s.inbound.drop (g + 12 + 4 * k + fillerAfter g + len)
        consumed := s.consumed + (g + 12 + 4 * k + fillerAfter g + len)
        history := t.history
        draws := s.draws.tail
        drawCount := s.drawCount + 1
        rx := { s.rx with
          a := g, m := Fin.ofNat 4 g, window := head, opcode := head.headerOpcode, len := head.headerLength
          slot := none, drainLeft := t.rx.drainLeft, scratch := t.rx.scratch } }

/-- 45_receive_handler.md rules R360 and R373 with 42_codec.md rules R247 and R248: a run on a frame whose opcode a
valid slot holds, the only one or the one that RESOLVE draws, takes the steps of rule R373, delivers the body to that
slot's buffers, sets its owner's resp_done, frees the slot, and ends unmasked and idle. The tape of draws is the model's
(log entry 4). -/
def Obligations.MatchedFrameRun : Prop :=
  ∀ (s : State) (g k : Nat) (i : SlotIx), s.cfg.wf = true → s.mem.wf = true → s.rx.label = .h0 →
    s.rx.phase = .idle → s.irqPending = true → s.irqMask = false → s.syncAt g k →
    let head := s.windowAt (g + 4 + 4 * k)
    let start := g + 12 + 4 * k + fillerAfter g
    let e := (s.slot i).entry
    let d := e.dcap.toNat
    let rem0 := head.headerLength.toNat - d
    let p := payloadBytes e rem0
    let o := overflowBytes e rem0
    (s.slot i).valid = true → e.expectedOpcode = head.headerOpcode →
    (∀ j, j ≠ i → (s.slot j).valid = true → (s.slot j).entry.expectedOpcode ≠ head.headerOpcode) ∨
      s.resolveSlot head.headerOpcode = some i →
    admitted s.cfg e.dbase.toNat d = true → admitted s.cfg e.pbase.toNat p = true →
    ∃ t, repeatExec .onNwpIrq (1 + locateSteps g k + 1
        + ((if 0 < d then 1 else 0) + (if 0 < p then 1 else 0) + drainSteps s.cfg o) + 1 + 1) s = .next t ∧
      t.port (s.slot i).owner = { s.port (s.slot i).owner with respDone := true } ∧
      (∀ q, q ≠ (s.slot i).owner → t.port q = s.port q) ∧
      (t.slot i).valid = false ∧ (∀ j, j ≠ i → t.slot j = s.slot j) ∧
      t.mem = (s.mem.write e.dbase.toNat (s.streamAt start d)).write e.pbase.toNat (s.streamAt (start + d) p) ∧
      t = { s with
        ports := t.ports
        slots := t.slots
        mem := t.mem
        irqPending := false
        irqMask := false
        txSeqNum := s.txSeqNum + 1#8
        cntOverflow := if 0 < o then s.cntOverflow + 1#32 else s.cntOverflow
        inbound := s.inbound.drop (start + d + p + o)
        consumed := s.consumed + (start + d + p + o)
        history := t.history
        draws := s.draws.tail
        drawCount := s.drawCount + 1
        rx := { s.rx with
          a := g, m := Fin.ofNat 4 g, window := head, opcode := head.headerOpcode, len := head.headerLength
          slot := some i, rem := t.rx.rem, drainLeft := t.rx.drainLeft, scratch := t.rx.scratch } }

/-! ## The Power Sequencer -/

/-- 46_power_sequencer.md rules R400, R402 and R422: POWER_ON from acceptance to PON6, in five steps: the outputs, the
pulses, the mask and the INIT-COMPLETE request of the drawn port, in their order. REG_MODE is not written (rule R414).
The tape of draws is the model's (log entry 4). -/
def Obligations.PowerOnRun : Prop :=
  ∀ (s : State) (q : Port) (i : SlotIx), s.pwr.step = .idle → s.drawnPort = some q → (s.port q).req.op = 2#4 →
    (s.slot i).valid = false → (∀ j, j < i → (s.slot j).valid = true) →
    repeatExec .powerOn 5 s =
      .next { (s.setSlot i { valid := true, owner := q, entry :=
            { expectedOpcode := s.cfg.initCompleteOpcode, dbase := 0#32, dcap := 0#16, ppresent := false
              pbase := 0#32, pcap := 0#16 } }).setPort q { s.port q with respDone := false } with
        irqMask := false
        draws := s.draws.tail
        drawCount := s.drawCount + 1
        history := s.history ++ [.level .stop false, .pulse .hostAckClr, .pulse .wakeReq, .level .irqMask false]
        pwr := { s.pwr with state := .poweringOn, stop := false, port := q, hostAck := false, step := .pon6 } }

/-- 46_power_sequencer.md rules R401, R402, R417, R418, R419 and R422: POWER_OFF from acceptance to completion, in eight
steps, where the acknowledgement is latched and WAKE_CONFIG stands at QUIESCED_VALUE. No slot, stream byte or host byte
changes. The tape of draws is the model's (log entry 4). -/
def Obligations.PowerOffRun : Prop :=
  ∀ (s : State) (q : Port), s.pwr.step = .idle → s.drawnPort = some q → (s.port q).req.op = 3#4 →
    s.pwr.oobAck = true → s.pwr.wakeConfig = s.cfg.quiescedValue →
    repeatExec .powerOff 8 s =
      .next { s.setPort q { s.port q with busy := false, done := true, result := .ok, phase := .idle } with
        irqMask := true
        draws := s.draws.tail
        drawCount := s.drawCount + 1
        history := s.history ++ [.pulse .oobTrigger, .pulse .oobAckClr, .level .irqMask true, .level .regMode true,
          .level .stop true, .settle]
        pwr := { s.pwr with
          state := .off, step := .idle, port := q, stop := true, regMode := .lowPower, oobAck := false } }

/-- 46_power_sequencer.md rules R400, R401 and R413 with 43_pending_table.md rule R288: the sequencer's waits. PON6
waits for resp_done and then completes the port with OK and pseq_state ON; PON5 stalls while the table is full; POF2 and
POF3 only move pseq_step on, each only while its condition holds. A sequencer without a step is left as it is when it is
named (log entry 8). -/
def Obligations.SequencerWaits : Prop :=
  ∀ s : State,
    (s.pwr.step = .pon6 → (s.port s.pwr.port).respDone = true → exec .powerOn s =
      .next { s.setPort s.pwr.port { s.port s.pwr.port with busy := false, done := true, result := .ok, phase := .idle }
        with pwr := { s.pwr with state := .on, step := .idle } }) ∧
    (s.pwr.step = .pon6 → (s.port s.pwr.port).respDone = false → ∀ n, repeatExec .powerOn n s = .next s) ∧
    (s.pwr.step = .pon5 → (∀ i : SlotIx, (s.slot i).valid = true) → ∀ n, repeatExec .powerOn n s = .next s) ∧
    (s.pwr.step = .pof2 → s.pwr.oobAck = true →
      exec .powerOff s = .next { s with pwr := { s.pwr with step := .pof3 } }) ∧
    (s.pwr.step = .pof2 → s.pwr.oobAck = false → ∀ n, repeatExec .powerOff n s = .next s) ∧
    (s.pwr.step = .pof3 → s.pwr.wakeConfig = s.cfg.quiescedValue →
      exec .powerOff s = .next { s with pwr := { s.pwr with step := .pof4 } }) ∧
    (s.pwr.step = .pof3 → s.pwr.wakeConfig ≠ s.cfg.quiescedValue → ∀ n, repeatExec .powerOff n s = .next s)

/-- 46_power_sequencer.md rule R402: the drawn port exists and waits in POWER, and under some draw it is any such port;
there is none only where none waits. The tape of draws is the model's (log entry 4). -/
def Obligations.AcceptanceDrawsAWaitingPort : Prop :=
  ∀ s : State,
    (∀ q, s.drawnPort = some q → s.hasPort q = true ∧ (s.port q).phase = .power) ∧
    (s.drawnPort = none → ∀ q, s.hasPort q = true → (s.port q).phase ≠ .power) ∧
    ∀ q, s.hasPort q = true → (s.port q).phase = .power → ∃ d, ({ s with draws := [d] }).drawnPort = some q

/-- 46_power_sequencer.md rule R423, over every step of every agent. -/
def Obligations.PseqStateTransitions : Prop :=
  State.reset.pwr.state = .off ∧
  ∀ s t : State, s.Inv → step s = .next t → t.pwr.state ≠ s.pwr.state →
    (t.pwr.state = .poweringOn ∧ t.pwr.step = .pon2 ∧ s.pwr.step = .idle ∧ (s.pwr.state = .off ∨ s.pwr.state = .on)) ∨
    (s.pwr.state = .poweringOn ∧ t.pwr.state = .on ∧ s.pwr.step = .pon6) ∨
    (t.pwr.state = .poweringOff ∧ t.pwr.step = .pof2 ∧ s.pwr.step = .idle ∧
      (s.pwr.state = .off ∨ s.pwr.state = .on)) ∨
    (s.pwr.state = .poweringOff ∧ t.pwr.state = .off ∧ s.pwr.step = .pof8)

/-- 46_power_sequencer.md rule R414: POF6 writes LOW_POWER, no step of POWER_ON writes REG_MODE, and no step of any
agent takes LOW_POWER away. -/
def Obligations.RegulatorNeverRestored : Prop :=
  (∀ s : State, s.pwr.step = .pof6 → exec .powerOff s =
    .next { s with
      pwr := { s.pwr with regMode := .lowPower, step := .pof7 }
      history := s.history ++ [.level .regMode true] }) ∧
  (∀ s t : State, exec .powerOn s = .next t → t.pwr.regMode = s.pwr.regMode) ∧
  ∀ s t : State, step s = .next t → t.pwr.regMode = s.pwr.regMode ∨
    (t.pwr.regMode = .lowPower ∧ s.pwr.step = .pof6 ∧ t.pwr.step = .pof7)

/-! ## Rules over every step -/

/-- 41_frame_sync.md rule R211 and 10_state.md rule R43 with 20_memory.md rule R95: a step writes tx_seq_num only
where LOCATE's skip loop ends with it, and then adds 1 modulo 256; a search that goes on or times out leaves it. That
the write falls in the step that ends the loop, the read of word A, is the model's reading of rule R95 (log entry 11).
-/
def Obligations.TxSeqOnlyByLocate : Prop :=
  ∀ s t : State, s.Inv → step s = .next t →
    (t.rx.label = .l11 ∧ s.rx.label ≠ .l11 → s.nextMove = .rx ∧ t.txSeqNum = s.txSeqNum + 1#8) ∧
    (¬(t.rx.label = .l11 ∧ s.rx.label ≠ .l11) → t.txSeqNum = s.txSeqNum)

/-- 60_exceptions.md rule R512: irq_mask = 1 holds off H0; only H0 and H5 of the RX engine and PON4 and POF5 of the
sequencer write it, each with its value; the host reads it as GSTATUS[0] and no host access writes it; it is 1 at
reset. That ON_NWP_IRQ, held off at H0, leaves the state as it is when it is named is the model's choice (log entry 8). -/
def Obligations.IrqMaskWriters : Prop :=
  State.reset.irqMask = true ∧
  (∀ s : State, (s.readReg .gstatus).getLsbD 0 = s.irqMask) ∧
  (∀ s : State, s.rx.label = .h0 → s.irqMask = true → exec .onNwpIrq s = .next s) ∧
  ∀ s t : State, s.Inv → step s = .next t → t.irqMask ≠ s.irqMask →
    (s.nextMove = .rx ∧ s.rx.label = .h0 ∧ t.irqMask = true) ∨
    (s.nextMove = .rx ∧ s.rx.label = .h5 ∧ t.irqMask = false) ∨
    (s.nextMove = .sequencer ∧ s.pwr.step = .pon4 ∧ t.irqMask = false) ∨
    (s.nextMove = .sequencer ∧ s.pwr.step = .pof5 ∧ t.irqMask = true)

/-- 10_state.md rule R49 and 60_exceptions.md rule R507: a step adds at most 1 to at most one of the three counters, and
only a step of the RX engine does. -/
def Obligations.CountersOnlyByRx : Prop :=
  ∀ s t : State, s.Inv → step s = .next t →
    let sameT := t.cntSyncTimeout = s.cntSyncTimeout
    let sameN := t.cntNoMatch = s.cntNoMatch
    let sameO := t.cntOverflow = s.cntOverflow
    (sameT ∧ sameN ∧ sameO) ∨ (s.nextMove = .rx ∧
      ((t.cntSyncTimeout = s.cntSyncTimeout + 1#32 ∧ sameN ∧ sameO) ∨
        (sameT ∧ t.cntNoMatch = s.cntNoMatch + 1#32 ∧ sameO) ∨
        (sameT ∧ sameN ∧ t.cntOverflow = s.cntOverflow + 1#32)))

/-- 43_pending_table.md rule R286 and 45_receive_handler.md rule R369: a valid slot keeps every field in every step but
the RX engine's H4 on that very slot, which frees it. -/
def Obligations.NoEviction : Prop :=
  ∀ (s t : State) (i : SlotIx), s.Inv → step s = .next t → (s.slot i).valid = true → t.slot i ≠ s.slot i →
    s.nextMove = .rx ∧ s.rx.label = .h4 ∧ s.rx.slot = some i ∧ (t.slot i).valid = false ∧
      (t.port (s.slot i).owner).respDone = true

/-- 10_state.md rules R31, R32 and 44_dispatcher.md rules R320, R325: a step changes a port's staging registers only
where it is a host write, and its in-flight record only where it is a host's CTRL write to that port while it was idle;
the record is then the staging registers. -/
def Obligations.RequestsChangeOnlyBySubmission : Prop :=
  ∀ (s t : State) (p : Port), s.Inv → step s = .next t →
    ((t.port p).staging ≠ (s.port p).staging → ∃ a v, s.nextMove = .host (.write a .word v)) ∧
    ((t.port p).req ≠ (s.port p).req → (s.port p).phase = .idle ∧ (t.port p).req = (t.port p).staging ∧
      ∃ a v, s.nextMove = .host (.write a .word v) ∧ a.toNat = s.cfg.base.toNat + 0x40 * p.val)

/-- 20_memory.md rules R86, R87, R88 and 70_reset_and_hazards.md rule R632: a step takes the next bytes of the inbound
stream in order, skips none and repeats none, records them in the history it only appends to, and makes no transport
call of zero bytes. The listed stream and its count are the model's own fields (log entry 3). -/
def Obligations.StreamConsumedInOrder : Prop :=
  ∀ s t : State, s.Inv → step s = .next t → ∃ (n : Nat) (es : List Event),
    t.history = s.history ++ es ∧ inboundBytesOf es = s.streamAt 0 n ∧ t.consumed = s.consumed + n ∧
    (∀ i, t.streamByte i = s.streamByte (n + i)) ∧ (∀ e, e ∈ es → e.nonempty = true)

/-- 20_memory.md rules R81, R83, R84 and 42_codec.md rule R248: a step of the engine changes a host byte only inside the
buffer that the RX engine's descriptor or payload step names, and only where HOSTMEM_OK admits it; the host's own stores
are the only others. The host's own stores are the model's reading (log entry 15). -/
def Obligations.MemoryWriters : Prop :=
  ∀ (s t : State) (a : Nat), s.Inv → step s = .next t → t.mem.get a ≠ s.mem.get a →
    (∃ addr w v, s.nextMove = .host (.write addr w v) ∧ addr.toNat ≤ a ∧ a < addr.toNat + w.bytes) ∨
    (s.nextMove = .rx ∧ hostmemOkAt s.cfg a = true ∧ ∃ i, s.rx.slot = some i ∧
      ((s.rx.label = .b2 ∧ (s.slot i).entry.dbase.toNat ≤ a ∧
          a < (s.slot i).entry.dbase.toNat + (s.slot i).entry.dcap.toNat) ∨
        (s.rx.label = .b3 ∧ (s.slot i).entry.pbase.toNat ≤ a ∧
          a < (s.slot i).entry.pbase.toNat + payloadBytes (s.slot i).entry s.rx.rem)))

/-- 20_memory.md rule R84, 42_codec.md rule R248: of the operations themselves, only READ_RESPONSE_BODY and the
handler at labels B2 and B3 store to host memory; every other operation, and these two at every other label, leave
every byte. -/
def Obligations.OnlyBodyStepsStore : Prop :=
  ∀ (i : Instr) (s t : State), exec i s = .next t →
    ((i = .readResponseBody ∨ i = .onNwpIrq) → s.rx.label ≠ .b2 ∧ s.rx.label ≠ .b3) →
    ∀ a, t.mem.get a = s.mem.get a

/-- 44_dispatcher.md rule R331: a step of port p changes no other port, nothing of the RX engine, the sequencer, the
interrupt, the counters, host memory or the inbound stream, and of the table only a slot it makes its own. -/
def Obligations.PortsAreIndependent : Prop :=
  ∀ (s t : State) (p : Port), s.Inv → s.nextMove = .port p → step s = .next t →
    (∀ q, q ≠ p → t.port q = s.port q) ∧
    (∀ i, t.slot i ≠ s.slot i → (t.slot i).valid = true ∧ (t.slot i).owner = p) ∧
    t = { s with
      ports := t.ports, slots := t.slots, history := t.history, moves := t.moves, moveCount := t.moveCount }

/-- 10_state.md rule R49 ("No behaviour of the engine depends on them") and 60_exceptions.md rule R525: for every move
but a host access, a step from a state with other counter values does the same to everything but the counters. -/
def Obligations.CountersDoNotMatter : Prop :=
  ∀ (s t : State) (x y z : Word), (∀ h, s.nextMove ≠ .host h) → step s = .next t →
    ∃ u, step { s with cntSyncTimeout := x, cntNoMatch := y, cntOverflow := z } = .next u ∧
      u = { t with cntSyncTimeout := u.cntSyncTimeout, cntNoMatch := u.cntNoMatch, cntOverflow := u.cntOverflow }

/-- 44_dispatcher.md rule R328 and 20_memory.md rule R94: while a body is copied, a step on another stream does the same
to everything but the bytes it moves: the scratch buffer, the history, the stream itself, and host memory inside the
buffer that the step stores to. Outside the descriptor buffer at B2 and the payload buffer at B3, and everywhere at D1,
host memory is the same after both. -/
def Obligations.ResponseContentsIgnored : Prop :=
  ∀ (s t : State) (other : List Byte), s.rx.label = .b2 ∨ s.rx.label = .b3 ∨ s.rx.label = .d1 → s.nextMove = .rx →
    step s = .next t →
    ∃ u, step { s with inbound := other } = .next u ∧
      u = { t with
        inbound := u.inbound, mem := u.mem, history := u.history
        rx := { t.rx with scratch := u.rx.scratch } } ∧
      (s.rx.label = .d1 → u.mem = t.mem) ∧
      (s.mem.wf = true → ∀ (i : SlotIx) (a : Nat), s.rx.slot = some i →
        let e := (s.slot i).entry
        (s.rx.label = .b2 → a < e.dbase.toNat ∨ e.dbase.toNat + e.dcap.toNat ≤ a → u.mem.get a = t.mem.get a) ∧
        (s.rx.label = .b3 → a < e.pbase.toNat ∨ e.pbase.toNat + payloadBytes e s.rx.rem ≤ a →
          u.mem.get a = t.mem.get a))

/-! ## Registers, reset and the step -/

/-- 10_state.md rules R59, R60, R65 and R66: what a host write leaves to be read back from a port's staging registers,
what the two write-one-to-clear fields do, and that a read-only register ignores a write. A write to a register leaves
every other register, of that port and of every other port, as it was: STATUS_CLR alone acts on another one, STATUS of
its port, and a CTRL write, which is a submission, on STATUS of its port. -/
def Obligations.RegisterWrites : Prop :=
  ∀ (s : State) (p : Port) (v : Word),
    (s.submit p v).readReg (.ctrl p) = v ∧
    (s.writeReg (.expOpcode p) v).readReg (.expOpcode p) = v &&& 0x0000FFFF#32 ∧
    (∀ r ∈ [Reg.seg0Base p, .seg1Base p, .seg2Base p, .rdescBase p, .rpayBase p], (s.writeReg r v).readReg r = v) ∧
    (∀ r ∈ [Reg.seg0Len p, .seg1Len p, .seg2Len p, .rpayCap p], (s.writeReg r v).readReg r = v &&& 0x0001FFFF#32) ∧
    (s.writeReg (.rdescCap p) v).readReg (.rdescCap p) = v &&& 0x0000FFFF#32 ∧
    (∀ r ∈ [Reg.status p, .txSeq, .cntSyncTimeout, .cntNoMatch, .cntOverflow, .pwrOut, .pwrIn, .ptSlot 0, .ptSlot 1,
      .reserved], s.writeReg r v = s) ∧
    s.writeReg (.statusClr p) v =
      (if v.getLsbD 1 then s.setPort p { s.port p with done := false } else s) ∧
    s.writeReg .gstatus v = (if v.getLsbD 2 then { s with syncTimeoutSticky := false } else s) ∧
    s.readReg (.statusClr p) = 0#32 ∧
    (∀ r r' : Reg, r' ≠ r → (∀ q, r = .statusClr q → r' ≠ .status q) →
      (s.writeReg r v).readReg r' = s.readReg r') ∧
    ∀ r' : Reg, r' ≠ .ctrl p → r' ≠ .status p → (s.submit p v).readReg r' = s.readReg r'

/-- 10_state.md rules R58, R59 and R62 with 93_implementation_defined.md I14: a host access that touches the register
range and is not a 32-bit access at an aligned address of it is refused. A register read is one step that records the
value and changes nothing else; a register write is one step too, and a write to CTRL is a submission. That an access
which touches the range in part is refused too is the model's reading (log entry 29). -/
def Obligations.RegisterRangeAccess : Prop :=
  ∀ (s : State) (addr : Word) (w : Width), s.cfg.wf = true →
    s.cfg.base.toNat < addr.toNat + w.bytes → addr.toNat < s.cfg.base.toNat + 0x400 →
    let reg := regAt s.cfg (addr.toNat - s.cfg.base.toNat)
    let aligned := w = .word ∧ addr.toNat % 4 = 0 ∧ s.cfg.base.toNat ≤ addr.toNat
    let done := fun (t : State) (e : Event) =>
      { t with history := t.history ++ [e], moves := t.moves.tail, moveCount := t.moveCount + 1 }
    (s.nextMove = .host (.read addr w) →
      (¬aligned → step s = .refused .registerAccess) ∧
      (aligned → step s = .next (done s (.regRead addr (s.readReg reg))))) ∧
    ∀ v, s.nextMove = .host (.write addr w v) →
      (¬aligned → step s = .refused .registerAccess) ∧
      (aligned → (∀ p, reg = .ctrl p → step s = .next (done (s.submit p v) (.regWrite addr v))) ∧
        ((∀ p, reg ≠ .ctrl p) → step s = .next (done (s.writeReg reg v) (.regWrite addr v))))

/-- 95_test_vectors.md V-RST-1 over 70_reset_and_hazards.md rule R600 and 10_state.md rules R58, R60 and R61: what the
registers read right after reset, in the test configuration: every register of every port reads 0, and the global ones
as the vector says. WAKE_CONFIG is the environment's; 0 is the model's choice (log entry 6). -/
def Obligations.ResetRegisterReads : Prop :=
  (∀ p : Port, ∀ r ∈ [Reg.ctrl p, .expOpcode p, .seg0Base p, .seg0Len p, .seg1Base p, .seg1Len p, .seg2Base p,
    .seg2Len p, .rdescBase p, .rdescCap p, .rpayBase p, .rpayCap p, .status p, .statusClr p],
    State.reset.readReg r = 0#32) ∧
  State.reset.readReg .gstatus = 0x00000001#32 ∧ State.reset.readReg .txSeq = 0#32 ∧
  State.reset.readReg .cntSyncTimeout = 0#32 ∧ State.reset.readReg .cntNoMatch = 0#32 ∧
  State.reset.readReg .cntOverflow = 0#32 ∧ State.reset.readReg .pwrOut = 0x00000001#32 ∧
  State.reset.readReg .pwrIn = 0#32 ∧ State.reset.readReg (.ptSlot 0) = 0#32 ∧
  State.reset.readReg (.ptSlot 1) = 0#32 ∧ regAt State.reset.cfg 0x21C = .reserved ∧
  State.reset.readReg .reserved = 0#32

/-- 20_memory.md rule R95: a step runs exactly the operation that its move fetches, records the move's own event behind
the operation's, and moves the interleaving on. The interleaving is a tape of moves (log entry 2), and the order of a
step's events is log entry 18. -/
def Obligations.StepRunsFetchedOperation : Prop :=
  ∀ (s : State) (i : Instr), s.fetch = some i →
    (∀ t, exec i s = .next t → step s =
      .next { t with
        moves := t.moves.tail, moveCount := t.moveCount + 1, history := t.history ++ s.moveEvents }) ∧
    (∀ r, exec i s = .refused r → step s = .refused r)

/-- 30_encoding.md rule R111 with 44_dispatcher.md rules R320 and R321 and 46_power_sequencer.md rule R402: a request
word placed for the next step is the operation the next step fetches, whatever the word and the state. How it is
placed is the model's (log entry 2). -/
def Obligations.PlacedWordIsFetched : Prop :=
  ∀ (s : State) (v : Word), 1 ≤ s.cfg.numPorts → (s.placeWord v).fetch = some (decodeCtrlWord v)

/-- 20_memory.md rules R88 and R89: what each environment move does, as a step, and the event it leaves. The moves are a
tape (log entry 2). A wake value of WC_W bits is stored and recorded as it is; that a wider one, which rule R89 does not
have, is stored and recorded as its low WC_W bits is the model's choice (log entry 25). -/
def Obligations.EnvironmentMoves : Prop :=
  ∀ s : State,
    let after := fun (t : State) (e : EnvMove) => { t.popMove with history := s.history ++ [.env e] }
    (s.nextMove = .env .irq → step s = .next (after { s with irqPending := true } .irq)) ∧
    (s.nextMove = .env .setOobAck →
      step s = .next (after { s with pwr := { s.pwr with oobAck := true } } .setOobAck)) ∧
    (s.nextMove = .env .setHostAck →
      step s = .next (after { s with pwr := { s.pwr with hostAck := true } } .setHostAck)) ∧
    ∀ v, s.nextMove = .env (.setWakeConfig v) → ∃ w : BitVec 16, w.toNat = v.toNat % 2 ^ s.cfg.wcW ∧
      (v.toNat < 2 ^ s.cfg.wcW → w = v) ∧
      step s = .next (after { s with pwr := { s.pwr with wakeConfig := w } } (.setWakeConfig w))

/-- 70_reset_and_hazards.md rule R600 with 10_state.md rules R33, R34, R37, R44, R50 and R51: the state after reset
meets the invariant, for all parameters that rule R12 allows and for everything reset does not touch: any WAKE_CONFIG
of WC_W bits, any host memory, any inbound stream. State.reset is one such state; its parameters, its zero WAKE_CONFIG
and its zero host memory are the model's choices (log entries 1, 5 and 6), and so is the zero scratch buffer of them
all (log entry 7). -/
def Obligations.ResetMeetsInvariant : Prop :=
  (∀ (c : Params) (wakeConfig : BitVec 16) (mem : Memory) (inbound : List Byte), c.wf = true → mem.wf = true →
    wakeConfig.toNat < 2 ^ c.wcW → (State.resetWith c wakeConfig mem inbound).Inv) ∧
  State.reset.Inv

/-- 10_state.md rules R33, R34, R37, R41, R42, R44, R50, R51 and R64, 43_pending_table.md rules R281 and R287,
45_receive_handler.md rules R363 and R369, 46_power_sequencer.md rules R402, R411 and R423, and the canonical form of
host memory: every step of every agent, from every state that meets the invariant, gives a state that meets it. -/
def Obligations.StepKeepsInvariant : Prop :=
  ∀ s t : State, s.Inv → step s = .next t → t.Inv

end
end

