-- ==== Sys2Proof/Laws/Decode.lean ====
section
/-! SUPPORT. The fields of a word put together from fields, and the byte order helpers against one another. -/

namespace Sys2Proof

@[simp] theorem ctrlOp_ctrlWord (c : Half) (r : BitVec 11) (e : Bool) (o : BitVec 4) :
    ctrlOp (ctrlWord c r e o) = o := by
  ext i hi
  simp only [ctrlOp, ctrlWord, BitVec.getElem_extractLsb', Nat.zero_add, BitVec.getLsbD_append]
  simp [hi]

@[simp] theorem ctrlExp_ctrlWord (c : Half) (r : BitVec 11) (e : Bool) (o : BitVec 4) :
    ctrlExp (ctrlWord c r e o) = e := by
  unfold ctrlExp ctrlWord
  rw [BitVec.getLsbD_append, BitVec.getLsbD_append]
  simp

@[simp] theorem ctrlRsv_ctrlWord (c : Half) (r : BitVec 11) (e : Bool) (o : BitVec 4) :
    ctrlRsv (ctrlWord c r e o) = r := by
  ext i hi
  simp only [ctrlRsv, ctrlWord, BitVec.getElem_extractLsb', BitVec.getLsbD_append]
  have h1 : ¬5 + i < 4 := by omega
  have h2 : ¬5 + i - 4 < 1 := by omega
  have h3 : 5 + i - 4 - 1 < 11 := by omega
  have h4 : 5 + i - 4 - 1 = i := by omega
  simp [h1, h2, hi, h4]

@[simp] theorem ctrlCmdOpcode_ctrlWord (c : Half) (r : BitVec 11) (e : Bool) (o : BitVec 4) :
    ctrlCmdOpcode (ctrlWord c r e o) = c := by
  ext i hi
  simp only [ctrlCmdOpcode, ctrlWord, BitVec.getElem_extractLsb', BitVec.getLsbD_append]
  have h1 : ¬16 + i < 4 := by omega
  have h2 : ¬16 + i - 4 < 1 := by omega
  have h3 : ¬16 + i - 4 - 1 < 11 := by omega
  have h4 : 16 + i - 4 - 1 - 11 = i := by omega
  simp [h1, h2, h3, h4, hi]

/-- A SEND_COMMAND word decodes to its operands (30_encoding.md rule R112). -/
theorem decodeCtrlWord_send (c : Half) (e : Bool) :
    decodeCtrlWord (ctrlWord c 0#11 e 1#4) = .sendCommand e c := by
  simp [decodeCtrlWord, isIllegal]

/-- Everything a CTRL word can decode to, and when (30_encoding.md rules R111 to R114). -/
theorem decodeCtrlWord_cases (w : Word) :
    (isIllegal w = true ∧ decodeCtrlWord w = .illegal w) ∨
    (isIllegal w = false ∧ ctrlOp w = 1#4 ∧ ctrlRsv w = 0#11
      ∧ decodeCtrlWord w = .sendCommand (ctrlExp w) (ctrlCmdOpcode w)) ∨
    (isIllegal w = false ∧ ctrlOp w = 2#4 ∧ w.extractLsb' 4 28 = 0#28 ∧ decodeCtrlWord w = .powerOn) ∨
    (isIllegal w = false ∧ ctrlOp w = 3#4 ∧ w.extractLsb' 4 28 = 0#28 ∧ decodeCtrlWord w = .powerOff) := by
  by_cases hi : isIllegal w = true
  · exact .inl ⟨hi, by rw [decodeCtrlWord, if_pos hi]⟩
  · have hf : isIllegal w = false := by simpa using hi
    have hd := hf
    unfold isIllegal at hd
    by_cases h1 : ctrlOp w = 1#4
    · rw [if_pos h1] at hd
      exact .inr (.inl ⟨hf, h1, by simpa using hd, by rw [decodeCtrlWord, if_neg hi, if_pos h1]⟩)
    · rw [if_neg h1] at hd
      by_cases h2 : ctrlOp w = 2#4
      · rw [if_pos (.inl h2)] at hd
        exact .inr (.inr (.inl ⟨hf, h2, by simpa using hd,
          by rw [decodeCtrlWord, if_neg hi, if_neg h1, if_pos h2]⟩))
      · by_cases h3 : ctrlOp w = 3#4
        · rw [if_pos (.inr h3)] at hd
          exact .inr (.inr (.inr ⟨hf, h3, by simpa using hd,
            by rw [decodeCtrlWord, if_neg hi, if_neg h1, if_neg h2]⟩))
        · rw [if_neg (not_or.mpr ⟨h2, h3⟩)] at hd
          exact absurd hd (by simp)

theorem le32_bytes32 (w : Word) :
    le32 (w.extractLsb' 0 8) (w.extractLsb' 8 8) (w.extractLsb' 16 8) (w.extractLsb' 24 8) = w := by
  apply BitVec.eq_of_getLsbD_eq
  intro i hi
  simp only [le32, BitVec.getLsbD_append, BitVec.getLsbD_extractLsb']
  by_cases h1 : i < 8
  · simp [h1]
  · by_cases h2 : i < 16
    · simp [h1, show i - 8 < 8 by omega, show 8 + (i - 8) = i by omega]
    · by_cases h3 : i < 24
      · simp [h1, show ¬i - 8 < 8 by omega, show i - 8 - 8 < 8 by omega, show 16 + (i - 8 - 8) = i by omega]
      · simp [h1, show ¬i - 8 < 8 by omega, show ¬i - 8 - 8 < 8 by omega, show i - 8 - 8 - 8 < 8 by omega,
          show 24 + (i - 8 - 8 - 8) = i by omega]

theorem bytes32_le32 (b0 b1 b2 b3 : Byte) : bytes32 (le32 b0 b1 b2 b3) = [b0, b1, b2, b3] := by
  simp only [bytes32, le32, List.cons.injEq, and_true]
  refine ⟨?_, ?_, ?_, ?_⟩ <;> ext i hi <;>
    simp only [BitVec.getElem_extractLsb', BitVec.getLsbD_append]
  · simp [hi]
  · have h1 : ¬8 + i < 8 := by omega
    have h2 : 8 + i - 8 = i := by omega
    simp [h1, h2, hi]
  · have h1 : ¬16 + i < 8 := by omega
    have h2 : ¬16 + i - 8 < 8 := by omega
    have h3 : 16 + i - 8 - 8 = i := by omega
    simp [h1, h2, h3, hi]
  · have h1 : ¬24 + i < 8 := by omega
    have h2 : ¬24 + i - 8 < 8 := by omega
    have h3 : ¬24 + i - 8 - 8 < 8 := by omega
    have h4 : 24 + i - 8 - 8 - 8 = i := by omega
    simp [h1, h2, h3, h4, hi]

theorem le16_bytes16 (v : Half) : le16 (v.extractLsb' 0 8) (v.extractLsb' 8 8) = v := by
  apply BitVec.eq_of_getLsbD_eq
  intro i hi
  simp only [le16, BitVec.getLsbD_append, BitVec.getLsbD_extractLsb']
  by_cases h1 : i < 8
  · simp [h1]
  · simp [h1, show i - 8 < 8 by omega, show 8 + (i - 8) = i by omega]

/-- The bytes transmitted for a pattern record are its last four (30_encoding.md rules R115 and R116). -/
theorem SyncPattern.bytes32_wireValue (x : SyncPattern) : bytes32 x.wireValue = x.record.drop 4 := by
  have h : x.wireValue = le32 (x.short.extractLsb' 0 8) (x.short.extractLsb' 8 8) x.byte1 x.byte2 := by
    apply BitVec.eq_of_getLsbD_eq
    intro i hi
    simp only [SyncPattern.wireValue, le32, BitVec.getLsbD_append, BitVec.getLsbD_extractLsb']
    by_cases h1 : i < 8
    · simp [h1, show i < 16 by omega]
    · by_cases h2 : i < 16
      · simp [h1, h2, show i - 8 < 8 by omega, show 8 + (i - 8) = i by omega]
      · simp [h1, h2, show ¬i - 8 < 8 by omega, show i - 8 - 8 = i - 16 by omega]
  rw [h, bytes32_le32]
  rfl

@[simp] theorem length_bytes32 (w : Word) : (bytes32 w).length = 4 := rfl

@[simp] theorem length_bytes16 (v : Half) : (bytes16 v).length = 2 := rfl

/-- A frame header is its opcode's bytes, then its length's (30_encoding.md rule R120). -/
theorem bytes32_headerValue (opcode length : Half) :
    bytes32 (headerValue opcode length) = bytes16 opcode ++ bytes16 length := by
  simp only [bytes32, headerValue, bytes16, List.cons_append, List.nil_append, List.cons.injEq, and_true]
  refine ⟨?_, ?_, ?_, ?_⟩ <;> ext i hi <;>
    simp only [BitVec.getElem_extractLsb', BitVec.getLsbD_append]
  · simp [show i < 16 by omega]
  · simp [show 8 + i < 16 by omega]
  · simp [show ¬16 + i < 16 by omega, show 16 + i - 16 = i by omega]
  · simp [show ¬24 + i < 16 by omega, show 24 + i - 16 = 8 + i by omega]

end Sys2Proof
end

