-- ==== Sys2Proof/Laws/Memory.lean ====
section
/-! SUPPORT. The laws of host memory: every operation keeps the canonical form, a read after a write gives what was
written, a write leaves every other address alone, and equal contents are equal lists. -/

namespace Sys2Proof.Machine

theorem Memory.wfFrom_cons {lo x : Nat} {b : Byte} {t : Memory} :
    Memory.wfFrom lo ((x, b) :: t) = true ↔
      lo ≤ x ∧ x < Memory.size ∧ b ≠ Memory.unlisted ∧ Memory.wfFrom (x + 1) t = true := by
  simp [Memory.wfFrom, and_assoc]

theorem Memory.wfFrom_mono {lo lo' : Nat} {m : Memory} (h : Memory.wfFrom lo m = true) (hl : lo' ≤ lo) :
    Memory.wfFrom lo' m = true := by
  cases m with
  | nil => rfl
  | cons c t =>
    obtain ⟨x, b⟩ := c
    rw [Memory.wfFrom_cons] at h ⊢
    exact ⟨by omega, h.2⟩

/-- An address below the list's bound is unlisted. -/
theorem Memory.get_below {lo a : Nat} {m : Memory} (h : Memory.wfFrom lo m = true) (ha : a < lo) :
    m.get a = Memory.unlisted := by
  induction m generalizing lo with
  | nil => rfl
  | cons c t ih =>
    obtain ⟨x, b⟩ := c
    rw [Memory.wfFrom_cons] at h
    have hx : a ≠ x := by omega
    simp only [Memory.get, hx, if_false]
    exact ih h.2.2.2 (by omega)

/-- A write keeps the canonical form. -/
theorem Memory.wfFrom_set {lo a : Nat} {b : Byte} {m : Memory} (h : Memory.wfFrom lo m = true) (hlo : lo ≤ a)
    (ha : a < Memory.size) : Memory.wfFrom lo (m.set a b) = true := by
  induction m generalizing lo with
  | nil =>
    by_cases hb : b = Memory.unlisted
    · simp [Memory.set, hb, Memory.wfFrom]
    · simp [Memory.set, hb, Memory.wfFrom, hlo, ha]
  | cons c t ih =>
    obtain ⟨x, y⟩ := c
    rw [Memory.wfFrom_cons] at h
    obtain ⟨h1, h2, h3, h4⟩ := h
    unfold Memory.set
    by_cases hax : a < x
    · rw [if_pos hax]
      by_cases hb : b = Memory.unlisted
      · rw [if_pos hb, Memory.wfFrom_cons]
        exact ⟨h1, h2, h3, h4⟩
      · rw [if_neg hb, Memory.wfFrom_cons, Memory.wfFrom_cons]
        exact ⟨hlo, ha, hb, by omega, h2, h3, h4⟩
    · rw [if_neg hax]
      by_cases hae : a = x
      · rw [if_pos hae]
        by_cases hb : b = Memory.unlisted
        · rw [if_pos hb]
          exact Memory.wfFrom_mono h4 (by omega)
        · rw [if_neg hb, Memory.wfFrom_cons]
          exact ⟨hlo, ha, hb, by rw [hae]; exact h4⟩
      · rw [if_neg hae, Memory.wfFrom_cons]
        exact ⟨h1, h2, h3, ih h4 (by omega)⟩

/-- Reading after one write. -/
theorem Memory.get_set {lo a : Nat} {b : Byte} {m : Memory} (h : Memory.wfFrom lo m = true) (x : Nat) :
    (m.set a b).get x = if x = a then b else m.get x := by
  induction m generalizing lo with
  | nil =>
    by_cases hb : b = Memory.unlisted
    · simp [Memory.set, hb, Memory.get]
    · simp [Memory.set, hb, Memory.get]
  | cons c t ih =>
    obtain ⟨z, y⟩ := c
    rw [Memory.wfFrom_cons] at h
    obtain ⟨-, -, -, h4⟩ := h
    unfold Memory.set
    by_cases haz : a < z
    · rw [if_pos haz]
      by_cases hb : b = Memory.unlisted
      · rw [if_pos hb]
        by_cases hx : x = a
        · rw [if_pos hx, hb, hx, Memory.get, if_neg (by omega)]
          exact Memory.get_below h4 (by omega)
        · rw [if_neg hx]
      · rw [if_neg hb]
        simp [Memory.get]
    · rw [if_neg haz]
      by_cases hae : a = z
      · rw [if_pos hae]
        by_cases hb : b = Memory.unlisted
        · rw [if_pos hb]
          by_cases hx : x = a
          · rw [if_pos hx, hb, hx, hae]
            exact Memory.get_below h4 (by omega)
          · rw [if_neg hx, Memory.get, if_neg (by omega)]
        · rw [if_neg hb]
          by_cases hx : x = a
          · simp [Memory.get, hx]
          · have : x ≠ z := by omega
            simp [Memory.get, hx, this]
      · rw [if_neg hae, Memory.get, Memory.get, ih h4]
        by_cases hx : x = z
        · simp [hx, Ne.symm hae]
        · simp [hx]

/-- A write of bytes keeps the canonical form. -/
theorem Memory.wf_write {m : Memory} (h : m.wf = true) {addr : Nat} {bytes : List Byte}
    (hb : addr + bytes.length ≤ Memory.size) : (m.write addr bytes).wf = true := by
  induction bytes generalizing m addr with
  | nil => exact h
  | cons b t ih =>
    simp only [List.length_cons] at hb
    exact ih (Memory.wfFrom_set h (by omega) (by omega)) (by omega)

/-- Reading after a write of bytes: the bytes written inside its range, everything else as before. -/
theorem Memory.get_write {m : Memory} (h : m.wf = true) {addr : Nat} {bytes : List Byte}
    (hb : addr + bytes.length ≤ Memory.size) (x : Nat) :
    (m.write addr bytes).get x = if addr ≤ x then bytes[x - addr]?.getD (m.get x) else m.get x := by
  induction bytes generalizing m addr with
  | nil => simp [Memory.write]
  | cons b t ih =>
    simp only [List.length_cons] at hb
    rw [Memory.write, ih (Memory.wfFrom_set h (by omega) (by omega)) (by omega), Memory.get_set h]
    by_cases h1 : addr + 1 ≤ x
    · have e : x - addr = (x - (addr + 1)) + 1 := by omega
      have h2 : x ≠ addr := by omega
      rw [if_pos h1, if_neg h2, if_pos (show addr ≤ x by omega), e, List.getElem?_cons_succ]
    · rw [if_neg h1]
      by_cases h2 : x = addr
      · simp [h2]
      · rw [if_neg h2, if_neg (by omega)]

/-- A write leaves every address outside its range alone. -/
theorem Memory.get_write_outside {m : Memory} (h : m.wf = true) {addr : Nat} {bytes : List Byte}
    (hb : addr + bytes.length ≤ Memory.size) {x : Nat} (hx : x < addr ∨ addr + bytes.length ≤ x) :
    (m.write addr bytes).get x = m.get x := by
  rw [Memory.get_write h hb]
  rcases hx with hx | hx
  · rw [if_neg (by omega)]
  · rw [if_pos (by omega), List.getElem?_eq_none (by omega)]
    rfl

/-- A write inside its range. -/
theorem Memory.get_write_inside {m : Memory} (h : m.wf = true) {addr : Nat} {bytes : List Byte}
    (hb : addr + bytes.length ≤ Memory.size) {i : Nat} (hi : i < bytes.length) :
    (m.write addr bytes).get (addr + i) = bytes[i] := by
  rw [Memory.get_write h hb, if_pos (by omega), Nat.add_sub_cancel_left, List.getElem?_eq_getElem hi]
  rfl

/-- Memories in canonical form that read the same are the same list. -/
theorem Memory.ext_get {lo : Nat} {m n : Memory} (hm : Memory.wfFrom lo m = true) (hn : Memory.wfFrom lo n = true)
    (h : ∀ a, m.get a = n.get a) : m = n := by
  induction m generalizing lo n with
  | nil =>
    cases n with
    | nil => rfl
    | cons c t =>
      obtain ⟨x, b⟩ := c
      rw [Memory.wfFrom_cons] at hn
      have := h x
      simp only [Memory.get, if_true] at this
      exact absurd this.symm hn.2.2.1
  | cons c t ih =>
    obtain ⟨x, b⟩ := c
    have hm' := hm
    rw [Memory.wfFrom_cons] at hm
    cases n with
    | nil =>
      have := h x
      simp only [Memory.get, if_true] at this
      exact absurd this hm.2.2.1
    | cons d u =>
      obtain ⟨y, e⟩ := d
      have hn' := hn
      rw [Memory.wfFrom_cons] at hn
      have hxy : x = y := by
        by_contra hne
        rcases Nat.lt_or_gt_of_ne hne with hlt | hlt
        · have := h x
          rw [Memory.get, if_pos rfl, Memory.get, if_neg hne,
            Memory.get_below hn.2.2.2 (by omega)] at this
          exact hm.2.2.1 this
        · have := h y
          rw [Memory.get, if_neg (Ne.symm hne), Memory.get, if_pos rfl,
            Memory.get_below hm.2.2.2 (by omega)] at this
          exact hn.2.2.1 this.symm
      subst hxy
      have hbe : b = e := by
        have := h x
        simpa [Memory.get] using this
      subst hbe
      have htu : t = u := by
        refine ih hm.2.2.2 hn.2.2.2 fun a => ?_
        by_cases ha : a = x
        · subst ha
          rw [Memory.get_below hm.2.2.2 (by omega), Memory.get_below hn.2.2.2 (by omega)]
        · have := h a
          simpa [Memory.get, ha] using this
      rw [htu]

/-- An admitted access lies inside host memory. -/
theorem admitted_bound {c : Params} {addr n : Nat} (h : admitted c addr n = true) (hn : 0 < n) :
    addr + n ≤ Memory.size := by
  have := List.all_eq_true.mp h (n - 1) (List.mem_range.mpr (by omega))
  simp only [hostmemOkAt, Bool.and_eq_true, decide_eq_true_eq] at this
  omega

@[simp] theorem admitted_zero (c : Params) (addr : Nat) : admitted c addr 0 = true := rfl

@[simp] theorem Memory.length_read (m : Memory) (addr n : Nat) : (m.read addr n).length = n := by
  simp [Memory.read]

@[simp] theorem Memory.write_nil (m : Memory) (addr : Nat) : m.write addr [] = m := rfl

end Sys2Proof.Machine
end

