-- ==== Sys2Proof/Laws/State.lean ====
section
/-! SUPPORT. What each update of the state does to each field, so that no later proof unfolds a record update; and the
port and slot accessors after each update. -/

namespace Sys2Proof.Machine

/-! ### State.setPort -/

@[simp] theorem State.setPort_cfg (s : State) (p : Port) (x : PortState) :
    (s.setPort p x).cfg = s.cfg := rfl
@[simp] theorem State.setPort_slots (s : State) (p : Port) (x : PortState) :
    (s.setPort p x).slots = s.slots := rfl
@[simp] theorem State.setPort_rx (s : State) (p : Port) (x : PortState) :
    (s.setPort p x).rx = s.rx := rfl
@[simp] theorem State.setPort_txSeqNum (s : State) (p : Port) (x : PortState) :
    (s.setPort p x).txSeqNum = s.txSeqNum := rfl
@[simp] theorem State.setPort_irqMask (s : State) (p : Port) (x : PortState) :
    (s.setPort p x).irqMask = s.irqMask := rfl
@[simp] theorem State.setPort_irqPending (s : State) (p : Port) (x : PortState) :
    (s.setPort p x).irqPending = s.irqPending := rfl
@[simp] theorem State.setPort_syncTimeoutSticky (s : State) (p : Port) (x : PortState) :
    (s.setPort p x).syncTimeoutSticky = s.syncTimeoutSticky := rfl
@[simp] theorem State.setPort_cntSyncTimeout (s : State) (p : Port) (x : PortState) :
    (s.setPort p x).cntSyncTimeout = s.cntSyncTimeout := rfl
@[simp] theorem State.setPort_cntNoMatch (s : State) (p : Port) (x : PortState) :
    (s.setPort p x).cntNoMatch = s.cntNoMatch := rfl
@[simp] theorem State.setPort_cntOverflow (s : State) (p : Port) (x : PortState) :
    (s.setPort p x).cntOverflow = s.cntOverflow := rfl
@[simp] theorem State.setPort_pwr (s : State) (p : Port) (x : PortState) :
    (s.setPort p x).pwr = s.pwr := rfl
@[simp] theorem State.setPort_mem (s : State) (p : Port) (x : PortState) :
    (s.setPort p x).mem = s.mem := rfl
@[simp] theorem State.setPort_history (s : State) (p : Port) (x : PortState) :
    (s.setPort p x).history = s.history := rfl
@[simp] theorem State.setPort_inbound (s : State) (p : Port) (x : PortState) :
    (s.setPort p x).inbound = s.inbound := rfl
@[simp] theorem State.setPort_consumed (s : State) (p : Port) (x : PortState) :
    (s.setPort p x).consumed = s.consumed := rfl
@[simp] theorem State.setPort_moves (s : State) (p : Port) (x : PortState) :
    (s.setPort p x).moves = s.moves := rfl
@[simp] theorem State.setPort_moveCount (s : State) (p : Port) (x : PortState) :
    (s.setPort p x).moveCount = s.moveCount := rfl
@[simp] theorem State.setPort_draws (s : State) (p : Port) (x : PortState) :
    (s.setPort p x).draws = s.draws := rfl
@[simp] theorem State.setPort_drawCount (s : State) (p : Port) (x : PortState) :
    (s.setPort p x).drawCount = s.drawCount := rfl

/-! ### State.setSlot -/

@[simp] theorem State.setSlot_cfg (s : State) (i : SlotIx) (x : Slot) :
    (s.setSlot i x).cfg = s.cfg := rfl
@[simp] theorem State.setSlot_ports (s : State) (i : SlotIx) (x : Slot) :
    (s.setSlot i x).ports = s.ports := rfl
@[simp] theorem State.setSlot_rx (s : State) (i : SlotIx) (x : Slot) :
    (s.setSlot i x).rx = s.rx := rfl
@[simp] theorem State.setSlot_txSeqNum (s : State) (i : SlotIx) (x : Slot) :
    (s.setSlot i x).txSeqNum = s.txSeqNum := rfl
@[simp] theorem State.setSlot_irqMask (s : State) (i : SlotIx) (x : Slot) :
    (s.setSlot i x).irqMask = s.irqMask := rfl
@[simp] theorem State.setSlot_irqPending (s : State) (i : SlotIx) (x : Slot) :
    (s.setSlot i x).irqPending = s.irqPending := rfl
@[simp] theorem State.setSlot_syncTimeoutSticky (s : State) (i : SlotIx) (x : Slot) :
    (s.setSlot i x).syncTimeoutSticky = s.syncTimeoutSticky := rfl
@[simp] theorem State.setSlot_cntSyncTimeout (s : State) (i : SlotIx) (x : Slot) :
    (s.setSlot i x).cntSyncTimeout = s.cntSyncTimeout := rfl
@[simp] theorem State.setSlot_cntNoMatch (s : State) (i : SlotIx) (x : Slot) :
    (s.setSlot i x).cntNoMatch = s.cntNoMatch := rfl
@[simp] theorem State.setSlot_cntOverflow (s : State) (i : SlotIx) (x : Slot) :
    (s.setSlot i x).cntOverflow = s.cntOverflow := rfl
@[simp] theorem State.setSlot_pwr (s : State) (i : SlotIx) (x : Slot) :
    (s.setSlot i x).pwr = s.pwr := rfl
@[simp] theorem State.setSlot_mem (s : State) (i : SlotIx) (x : Slot) :
    (s.setSlot i x).mem = s.mem := rfl
@[simp] theorem State.setSlot_history (s : State) (i : SlotIx) (x : Slot) :
    (s.setSlot i x).history = s.history := rfl
@[simp] theorem State.setSlot_inbound (s : State) (i : SlotIx) (x : Slot) :
    (s.setSlot i x).inbound = s.inbound := rfl
@[simp] theorem State.setSlot_consumed (s : State) (i : SlotIx) (x : Slot) :
    (s.setSlot i x).consumed = s.consumed := rfl
@[simp] theorem State.setSlot_moves (s : State) (i : SlotIx) (x : Slot) :
    (s.setSlot i x).moves = s.moves := rfl
@[simp] theorem State.setSlot_moveCount (s : State) (i : SlotIx) (x : Slot) :
    (s.setSlot i x).moveCount = s.moveCount := rfl
@[simp] theorem State.setSlot_draws (s : State) (i : SlotIx) (x : Slot) :
    (s.setSlot i x).draws = s.draws := rfl
@[simp] theorem State.setSlot_drawCount (s : State) (i : SlotIx) (x : Slot) :
    (s.setSlot i x).drawCount = s.drawCount := rfl

/-! ### State.emit -/

@[simp] theorem State.emit_cfg (s : State) (e : Event) :
    (s.emit e).cfg = s.cfg := rfl
@[simp] theorem State.emit_ports (s : State) (e : Event) :
    (s.emit e).ports = s.ports := rfl
@[simp] theorem State.emit_slots (s : State) (e : Event) :
    (s.emit e).slots = s.slots := rfl
@[simp] theorem State.emit_rx (s : State) (e : Event) :
    (s.emit e).rx = s.rx := rfl
@[simp] theorem State.emit_txSeqNum (s : State) (e : Event) :
    (s.emit e).txSeqNum = s.txSeqNum := rfl
@[simp] theorem State.emit_irqMask (s : State) (e : Event) :
    (s.emit e).irqMask = s.irqMask := rfl
@[simp] theorem State.emit_irqPending (s : State) (e : Event) :
    (s.emit e).irqPending = s.irqPending := rfl
@[simp] theorem State.emit_syncTimeoutSticky (s : State) (e : Event) :
    (s.emit e).syncTimeoutSticky = s.syncTimeoutSticky := rfl
@[simp] theorem State.emit_cntSyncTimeout (s : State) (e : Event) :
    (s.emit e).cntSyncTimeout = s.cntSyncTimeout := rfl
@[simp] theorem State.emit_cntNoMatch (s : State) (e : Event) :
    (s.emit e).cntNoMatch = s.cntNoMatch := rfl
@[simp] theorem State.emit_cntOverflow (s : State) (e : Event) :
    (s.emit e).cntOverflow = s.cntOverflow := rfl
@[simp] theorem State.emit_pwr (s : State) (e : Event) :
    (s.emit e).pwr = s.pwr := rfl
@[simp] theorem State.emit_mem (s : State) (e : Event) :
    (s.emit e).mem = s.mem := rfl
@[simp] theorem State.emit_history (s : State) (e : Event) :
    (s.emit e).history = s.history ++ [e] := rfl
@[simp] theorem State.emit_inbound (s : State) (e : Event) :
    (s.emit e).inbound = s.inbound := rfl
@[simp] theorem State.emit_consumed (s : State) (e : Event) :
    (s.emit e).consumed = s.consumed := rfl
@[simp] theorem State.emit_moves (s : State) (e : Event) :
    (s.emit e).moves = s.moves := rfl
@[simp] theorem State.emit_moveCount (s : State) (e : Event) :
    (s.emit e).moveCount = s.moveCount := rfl
@[simp] theorem State.emit_draws (s : State) (e : Event) :
    (s.emit e).draws = s.draws := rfl
@[simp] theorem State.emit_drawCount (s : State) (e : Event) :
    (s.emit e).drawCount = s.drawCount := rfl

/-! ### State.popMove -/

@[simp] theorem State.popMove_cfg (s : State) :
    s.popMove.cfg = s.cfg := rfl
@[simp] theorem State.popMove_ports (s : State) :
    s.popMove.ports = s.ports := rfl
@[simp] theorem State.popMove_slots (s : State) :
    s.popMove.slots = s.slots := rfl
@[simp] theorem State.popMove_rx (s : State) :
    s.popMove.rx = s.rx := rfl
@[simp] theorem State.popMove_txSeqNum (s : State) :
    s.popMove.txSeqNum = s.txSeqNum := rfl
@[simp] theorem State.popMove_irqMask (s : State) :
    s.popMove.irqMask = s.irqMask := rfl
@[simp] theorem State.popMove_irqPending (s : State) :
    s.popMove.irqPending = s.irqPending := rfl
@[simp] theorem State.popMove_syncTimeoutSticky (s : State) :
    s.popMove.syncTimeoutSticky = s.syncTimeoutSticky := rfl
@[simp] theorem State.popMove_cntSyncTimeout (s : State) :
    s.popMove.cntSyncTimeout = s.cntSyncTimeout := rfl
@[simp] theorem State.popMove_cntNoMatch (s : State) :
    s.popMove.cntNoMatch = s.cntNoMatch := rfl
@[simp] theorem State.popMove_cntOverflow (s : State) :
    s.popMove.cntOverflow = s.cntOverflow := rfl
@[simp] theorem State.popMove_pwr (s : State) :
    s.popMove.pwr = s.pwr := rfl
@[simp] theorem State.popMove_mem (s : State) :
    s.popMove.mem = s.mem := rfl
@[simp] theorem State.popMove_history (s : State) :
    s.popMove.history = s.history := rfl
@[simp] theorem State.popMove_inbound (s : State) :
    s.popMove.inbound = s.inbound := rfl
@[simp] theorem State.popMove_consumed (s : State) :
    s.popMove.consumed = s.consumed := rfl
@[simp] theorem State.popMove_moves (s : State) :
    s.popMove.moves = s.moves.tail := rfl
@[simp] theorem State.popMove_moveCount (s : State) :
    s.popMove.moveCount = s.moveCount + 1 := rfl
@[simp] theorem State.popMove_draws (s : State) :
    s.popMove.draws = s.draws := rfl
@[simp] theorem State.popMove_drawCount (s : State) :
    s.popMove.drawCount = s.drawCount := rfl

/-! ### State.popDraw -/

@[simp] theorem State.popDraw_cfg (s : State) :
    s.popDraw.cfg = s.cfg := rfl
@[simp] theorem State.popDraw_ports (s : State) :
    s.popDraw.ports = s.ports := rfl
@[simp] theorem State.popDraw_slots (s : State) :
    s.popDraw.slots = s.slots := rfl
@[simp] theorem State.popDraw_rx (s : State) :
    s.popDraw.rx = s.rx := rfl
@[simp] theorem State.popDraw_txSeqNum (s : State) :
    s.popDraw.txSeqNum = s.txSeqNum := rfl
@[simp] theorem State.popDraw_irqMask (s : State) :
    s.popDraw.irqMask = s.irqMask := rfl
@[simp] theorem State.popDraw_irqPending (s : State) :
    s.popDraw.irqPending = s.irqPending := rfl
@[simp] theorem State.popDraw_syncTimeoutSticky (s : State) :
    s.popDraw.syncTimeoutSticky = s.syncTimeoutSticky := rfl
@[simp] theorem State.popDraw_cntSyncTimeout (s : State) :
    s.popDraw.cntSyncTimeout = s.cntSyncTimeout := rfl
@[simp] theorem State.popDraw_cntNoMatch (s : State) :
    s.popDraw.cntNoMatch = s.cntNoMatch := rfl
@[simp] theorem State.popDraw_cntOverflow (s : State) :
    s.popDraw.cntOverflow = s.cntOverflow := rfl
@[simp] theorem State.popDraw_pwr (s : State) :
    s.popDraw.pwr = s.pwr := rfl
@[simp] theorem State.popDraw_mem (s : State) :
    s.popDraw.mem = s.mem := rfl
@[simp] theorem State.popDraw_history (s : State) :
    s.popDraw.history = s.history := rfl
@[simp] theorem State.popDraw_inbound (s : State) :
    s.popDraw.inbound = s.inbound := rfl
@[simp] theorem State.popDraw_consumed (s : State) :
    s.popDraw.consumed = s.consumed := rfl
@[simp] theorem State.popDraw_moves (s : State) :
    s.popDraw.moves = s.moves := rfl
@[simp] theorem State.popDraw_moveCount (s : State) :
    s.popDraw.moveCount = s.moveCount := rfl
@[simp] theorem State.popDraw_draws (s : State) :
    s.popDraw.draws = s.draws.tail := rfl
@[simp] theorem State.popDraw_drawCount (s : State) :
    s.popDraw.drawCount = s.drawCount + 1 := rfl

/-! ### State.consume -/

@[simp] theorem State.consume_cfg (s : State) (n : Nat) :
    (s.consume n).cfg = s.cfg := rfl
@[simp] theorem State.consume_ports (s : State) (n : Nat) :
    (s.consume n).ports = s.ports := rfl
@[simp] theorem State.consume_slots (s : State) (n : Nat) :
    (s.consume n).slots = s.slots := rfl
@[simp] theorem State.consume_rx (s : State) (n : Nat) :
    (s.consume n).rx = s.rx := rfl
@[simp] theorem State.consume_txSeqNum (s : State) (n : Nat) :
    (s.consume n).txSeqNum = s.txSeqNum := rfl
@[simp] theorem State.consume_irqMask (s : State) (n : Nat) :
    (s.consume n).irqMask = s.irqMask := rfl
@[simp] theorem State.consume_irqPending (s : State) (n : Nat) :
    (s.consume n).irqPending = s.irqPending := rfl
@[simp] theorem State.consume_syncTimeoutSticky (s : State) (n : Nat) :
    (s.consume n).syncTimeoutSticky = s.syncTimeoutSticky := rfl
@[simp] theorem State.consume_cntSyncTimeout (s : State) (n : Nat) :
    (s.consume n).cntSyncTimeout = s.cntSyncTimeout := rfl
@[simp] theorem State.consume_cntNoMatch (s : State) (n : Nat) :
    (s.consume n).cntNoMatch = s.cntNoMatch := rfl
@[simp] theorem State.consume_cntOverflow (s : State) (n : Nat) :
    (s.consume n).cntOverflow = s.cntOverflow := rfl
@[simp] theorem State.consume_pwr (s : State) (n : Nat) :
    (s.consume n).pwr = s.pwr := rfl
@[simp] theorem State.consume_mem (s : State) (n : Nat) :
    (s.consume n).mem = s.mem := rfl
@[simp] theorem State.consume_history (s : State) (n : Nat) :
    (s.consume n).history = s.history := rfl
@[simp] theorem State.consume_inbound (s : State) (n : Nat) :
    (s.consume n).inbound = s.inbound.drop n := rfl
@[simp] theorem State.consume_consumed (s : State) (n : Nat) :
    (s.consume n).consumed = s.consumed + n := rfl
@[simp] theorem State.consume_moves (s : State) (n : Nat) :
    (s.consume n).moves = s.moves := rfl
@[simp] theorem State.consume_moveCount (s : State) (n : Nat) :
    (s.consume n).moveCount = s.moveCount := rfl
@[simp] theorem State.consume_draws (s : State) (n : Nat) :
    (s.consume n).draws = s.draws := rfl
@[simp] theorem State.consume_drawCount (s : State) (n : Nat) :
    (s.consume n).drawCount = s.drawCount := rfl

/-! ### State.answering -/

@[simp] theorem State.answering_cfg (s : State) (bytes : List Byte) :
    (s.answering bytes).cfg = s.cfg := rfl
@[simp] theorem State.answering_ports (s : State) (bytes : List Byte) :
    (s.answering bytes).ports = s.ports := rfl
@[simp] theorem State.answering_slots (s : State) (bytes : List Byte) :
    (s.answering bytes).slots = s.slots := rfl
@[simp] theorem State.answering_rx (s : State) (bytes : List Byte) :
    (s.answering bytes).rx = s.rx := rfl
@[simp] theorem State.answering_txSeqNum (s : State) (bytes : List Byte) :
    (s.answering bytes).txSeqNum = s.txSeqNum := rfl
@[simp] theorem State.answering_irqMask (s : State) (bytes : List Byte) :
    (s.answering bytes).irqMask = s.irqMask := rfl
@[simp] theorem State.answering_irqPending (s : State) (bytes : List Byte) :
    (s.answering bytes).irqPending = s.irqPending := rfl
@[simp] theorem State.answering_syncTimeoutSticky (s : State) (bytes : List Byte) :
    (s.answering bytes).syncTimeoutSticky = s.syncTimeoutSticky := rfl
@[simp] theorem State.answering_cntSyncTimeout (s : State) (bytes : List Byte) :
    (s.answering bytes).cntSyncTimeout = s.cntSyncTimeout := rfl
@[simp] theorem State.answering_cntNoMatch (s : State) (bytes : List Byte) :
    (s.answering bytes).cntNoMatch = s.cntNoMatch := rfl
@[simp] theorem State.answering_cntOverflow (s : State) (bytes : List Byte) :
    (s.answering bytes).cntOverflow = s.cntOverflow := rfl
@[simp] theorem State.answering_pwr (s : State) (bytes : List Byte) :
    (s.answering bytes).pwr = s.pwr := rfl
@[simp] theorem State.answering_mem (s : State) (bytes : List Byte) :
    (s.answering bytes).mem = s.mem := rfl
@[simp] theorem State.answering_history (s : State) (bytes : List Byte) :
    (s.answering bytes).history = s.history := rfl
@[simp] theorem State.answering_inbound (s : State) (bytes : List Byte) :
    (s.answering bytes).inbound = bytes ++ s.inbound := rfl
@[simp] theorem State.answering_consumed (s : State) (bytes : List Byte) :
    (s.answering bytes).consumed = s.consumed := rfl
@[simp] theorem State.answering_moves (s : State) (bytes : List Byte) :
    (s.answering bytes).moves = s.moves := rfl
@[simp] theorem State.answering_moveCount (s : State) (bytes : List Byte) :
    (s.answering bytes).moveCount = s.moveCount := rfl
@[simp] theorem State.answering_draws (s : State) (bytes : List Byte) :
    (s.answering bytes).draws = s.draws := rfl
@[simp] theorem State.answering_drawCount (s : State) (bytes : List Byte) :
    (s.answering bytes).drawCount = s.drawCount := rfl

/-! ### State.transportRead -/

@[simp] theorem State.transportRead_cfg (s : State) (n : Nat) :
    (s.transportRead n).cfg = s.cfg := rfl
@[simp] theorem State.transportRead_ports (s : State) (n : Nat) :
    (s.transportRead n).ports = s.ports := rfl
@[simp] theorem State.transportRead_slots (s : State) (n : Nat) :
    (s.transportRead n).slots = s.slots := rfl
@[simp] theorem State.transportRead_rx (s : State) (n : Nat) :
    (s.transportRead n).rx = s.rx := rfl
@[simp] theorem State.transportRead_txSeqNum (s : State) (n : Nat) :
    (s.transportRead n).txSeqNum = s.txSeqNum := rfl
@[simp] theorem State.transportRead_irqMask (s : State) (n : Nat) :
    (s.transportRead n).irqMask = s.irqMask := rfl
@[simp] theorem State.transportRead_irqPending (s : State) (n : Nat) :
    (s.transportRead n).irqPending = s.irqPending := rfl
@[simp] theorem State.transportRead_syncTimeoutSticky (s : State) (n : Nat) :
    (s.transportRead n).syncTimeoutSticky = s.syncTimeoutSticky := rfl
@[simp] theorem State.transportRead_cntSyncTimeout (s : State) (n : Nat) :
    (s.transportRead n).cntSyncTimeout = s.cntSyncTimeout := rfl
@[simp] theorem State.transportRead_cntNoMatch (s : State) (n : Nat) :
    (s.transportRead n).cntNoMatch = s.cntNoMatch := rfl
@[simp] theorem State.transportRead_cntOverflow (s : State) (n : Nat) :
    (s.transportRead n).cntOverflow = s.cntOverflow := rfl
@[simp] theorem State.transportRead_pwr (s : State) (n : Nat) :
    (s.transportRead n).pwr = s.pwr := rfl
@[simp] theorem State.transportRead_mem (s : State) (n : Nat) :
    (s.transportRead n).mem = s.mem := rfl
@[simp] theorem State.transportRead_history (s : State) (n : Nat) :
    (s.transportRead n).history = s.history ++ [.rx .rx (s.streamBytes n)] := rfl
@[simp] theorem State.transportRead_inbound (s : State) (n : Nat) :
    (s.transportRead n).inbound = s.inbound.drop n := rfl
@[simp] theorem State.transportRead_consumed (s : State) (n : Nat) :
    (s.transportRead n).consumed = s.consumed + n := rfl
@[simp] theorem State.transportRead_moves (s : State) (n : Nat) :
    (s.transportRead n).moves = s.moves := rfl
@[simp] theorem State.transportRead_moveCount (s : State) (n : Nat) :
    (s.transportRead n).moveCount = s.moveCount := rfl
@[simp] theorem State.transportRead_draws (s : State) (n : Nat) :
    (s.transportRead n).draws = s.draws := rfl
@[simp] theorem State.transportRead_drawCount (s : State) (n : Nat) :
    (s.transportRead n).drawCount = s.drawCount := rfl

/-! ### State.transportWrite -/

@[simp] theorem State.transportWrite_cfg (s : State) (a : Agent) (bytes : List Byte) :
    (s.transportWrite a bytes).cfg = s.cfg := rfl
@[simp] theorem State.transportWrite_ports (s : State) (a : Agent) (bytes : List Byte) :
    (s.transportWrite a bytes).ports = s.ports := rfl
@[simp] theorem State.transportWrite_slots (s : State) (a : Agent) (bytes : List Byte) :
    (s.transportWrite a bytes).slots = s.slots := rfl
@[simp] theorem State.transportWrite_rx (s : State) (a : Agent) (bytes : List Byte) :
    (s.transportWrite a bytes).rx = s.rx := rfl
@[simp] theorem State.transportWrite_txSeqNum (s : State) (a : Agent) (bytes : List Byte) :
    (s.transportWrite a bytes).txSeqNum = s.txSeqNum := rfl
@[simp] theorem State.transportWrite_irqMask (s : State) (a : Agent) (bytes : List Byte) :
    (s.transportWrite a bytes).irqMask = s.irqMask := rfl
@[simp] theorem State.transportWrite_irqPending (s : State) (a : Agent) (bytes : List Byte) :
    (s.transportWrite a bytes).irqPending = s.irqPending := rfl
@[simp] theorem State.transportWrite_syncTimeoutSticky (s : State) (a : Agent) (bytes : List Byte) :
    (s.transportWrite a bytes).syncTimeoutSticky = s.syncTimeoutSticky := rfl
@[simp] theorem State.transportWrite_cntSyncTimeout (s : State) (a : Agent) (bytes : List Byte) :
    (s.transportWrite a bytes).cntSyncTimeout = s.cntSyncTimeout := rfl
@[simp] theorem State.transportWrite_cntNoMatch (s : State) (a : Agent) (bytes : List Byte) :
    (s.transportWrite a bytes).cntNoMatch = s.cntNoMatch := rfl
@[simp] theorem State.transportWrite_cntOverflow (s : State) (a : Agent) (bytes : List Byte) :
    (s.transportWrite a bytes).cntOverflow = s.cntOverflow := rfl
@[simp] theorem State.transportWrite_pwr (s : State) (a : Agent) (bytes : List Byte) :
    (s.transportWrite a bytes).pwr = s.pwr := rfl
@[simp] theorem State.transportWrite_mem (s : State) (a : Agent) (bytes : List Byte) :
    (s.transportWrite a bytes).mem = s.mem := rfl
@[simp] theorem State.transportWrite_history (s : State) (a : Agent) (bytes : List Byte) :
    (s.transportWrite a bytes).history = s.history ++ [.tx a bytes] := rfl
@[simp] theorem State.transportWrite_inbound (s : State) (a : Agent) (bytes : List Byte) :
    (s.transportWrite a bytes).inbound = s.inbound := rfl
@[simp] theorem State.transportWrite_consumed (s : State) (a : Agent) (bytes : List Byte) :
    (s.transportWrite a bytes).consumed = s.consumed := rfl
@[simp] theorem State.transportWrite_moves (s : State) (a : Agent) (bytes : List Byte) :
    (s.transportWrite a bytes).moves = s.moves := rfl
@[simp] theorem State.transportWrite_moveCount (s : State) (a : Agent) (bytes : List Byte) :
    (s.transportWrite a bytes).moveCount = s.moveCount := rfl
@[simp] theorem State.transportWrite_draws (s : State) (a : Agent) (bytes : List Byte) :
    (s.transportWrite a bytes).draws = s.draws := rfl
@[simp] theorem State.transportWrite_drawCount (s : State) (a : Agent) (bytes : List Byte) :
    (s.transportWrite a bytes).drawCount = s.drawCount := rfl

/-! ### State.removeSlot -/

@[simp] theorem State.removeSlot_cfg (s : State) (i : SlotIx) :
    (s.removeSlot i).cfg = s.cfg := rfl
@[simp] theorem State.removeSlot_ports (s : State) (i : SlotIx) :
    (s.removeSlot i).ports = s.ports := rfl
@[simp] theorem State.removeSlot_rx (s : State) (i : SlotIx) :
    (s.removeSlot i).rx = s.rx := rfl
@[simp] theorem State.removeSlot_txSeqNum (s : State) (i : SlotIx) :
    (s.removeSlot i).txSeqNum = s.txSeqNum := rfl
@[simp] theorem State.removeSlot_irqMask (s : State) (i : SlotIx) :
    (s.removeSlot i).irqMask = s.irqMask := rfl
@[simp] theorem State.removeSlot_irqPending (s : State) (i : SlotIx) :
    (s.removeSlot i).irqPending = s.irqPending := rfl
@[simp] theorem State.removeSlot_syncTimeoutSticky (s : State) (i : SlotIx) :
    (s.removeSlot i).syncTimeoutSticky = s.syncTimeoutSticky := rfl
@[simp] theorem State.removeSlot_cntSyncTimeout (s : State) (i : SlotIx) :
    (s.removeSlot i).cntSyncTimeout = s.cntSyncTimeout := rfl
@[simp] theorem State.removeSlot_cntNoMatch (s : State) (i : SlotIx) :
    (s.removeSlot i).cntNoMatch = s.cntNoMatch := rfl
@[simp] theorem State.removeSlot_cntOverflow (s : State) (i : SlotIx) :
    (s.removeSlot i).cntOverflow = s.cntOverflow := rfl
@[simp] theorem State.removeSlot_pwr (s : State) (i : SlotIx) :
    (s.removeSlot i).pwr = s.pwr := rfl
@[simp] theorem State.removeSlot_mem (s : State) (i : SlotIx) :
    (s.removeSlot i).mem = s.mem := rfl
@[simp] theorem State.removeSlot_history (s : State) (i : SlotIx) :
    (s.removeSlot i).history = s.history := rfl
@[simp] theorem State.removeSlot_inbound (s : State) (i : SlotIx) :
    (s.removeSlot i).inbound = s.inbound := rfl
@[simp] theorem State.removeSlot_consumed (s : State) (i : SlotIx) :
    (s.removeSlot i).consumed = s.consumed := rfl
@[simp] theorem State.removeSlot_moves (s : State) (i : SlotIx) :
    (s.removeSlot i).moves = s.moves := rfl
@[simp] theorem State.removeSlot_moveCount (s : State) (i : SlotIx) :
    (s.removeSlot i).moveCount = s.moveCount := rfl
@[simp] theorem State.removeSlot_draws (s : State) (i : SlotIx) :
    (s.removeSlot i).draws = s.draws := rfl
@[simp] theorem State.removeSlot_drawCount (s : State) (i : SlotIx) :
    (s.removeSlot i).drawCount = s.drawCount := rfl

/-! ### State.completePort -/

@[simp] theorem State.completePort_cfg (s : State) (p : Port) (r : Result) :
    (s.completePort p r).cfg = s.cfg := rfl
@[simp] theorem State.completePort_slots (s : State) (p : Port) (r : Result) :
    (s.completePort p r).slots = s.slots := rfl
@[simp] theorem State.completePort_rx (s : State) (p : Port) (r : Result) :
    (s.completePort p r).rx = s.rx := rfl
@[simp] theorem State.completePort_txSeqNum (s : State) (p : Port) (r : Result) :
    (s.completePort p r).txSeqNum = s.txSeqNum := rfl
@[simp] theorem State.completePort_irqMask (s : State) (p : Port) (r : Result) :
    (s.completePort p r).irqMask = s.irqMask := rfl
@[simp] theorem State.completePort_irqPending (s : State) (p : Port) (r : Result) :
    (s.completePort p r).irqPending = s.irqPending := rfl
@[simp] theorem State.completePort_syncTimeoutSticky (s : State) (p : Port) (r : Result) :
    (s.completePort p r).syncTimeoutSticky = s.syncTimeoutSticky := rfl
@[simp] theorem State.completePort_cntSyncTimeout (s : State) (p : Port) (r : Result) :
    (s.completePort p r).cntSyncTimeout = s.cntSyncTimeout := rfl
@[simp] theorem State.completePort_cntNoMatch (s : State) (p : Port) (r : Result) :
    (s.completePort p r).cntNoMatch = s.cntNoMatch := rfl
@[simp] theorem State.completePort_cntOverflow (s : State) (p : Port) (r : Result) :
    (s.completePort p r).cntOverflow = s.cntOverflow := rfl
@[simp] theorem State.completePort_pwr (s : State) (p : Port) (r : Result) :
    (s.completePort p r).pwr = s.pwr := rfl
@[simp] theorem State.completePort_mem (s : State) (p : Port) (r : Result) :
    (s.completePort p r).mem = s.mem := rfl
@[simp] theorem State.completePort_history (s : State) (p : Port) (r : Result) :
    (s.completePort p r).history = s.history := rfl
@[simp] theorem State.completePort_inbound (s : State) (p : Port) (r : Result) :
    (s.completePort p r).inbound = s.inbound := rfl
@[simp] theorem State.completePort_consumed (s : State) (p : Port) (r : Result) :
    (s.completePort p r).consumed = s.consumed := rfl
@[simp] theorem State.completePort_moves (s : State) (p : Port) (r : Result) :
    (s.completePort p r).moves = s.moves := rfl
@[simp] theorem State.completePort_moveCount (s : State) (p : Port) (r : Result) :
    (s.completePort p r).moveCount = s.moveCount := rfl
@[simp] theorem State.completePort_draws (s : State) (p : Port) (r : Result) :
    (s.completePort p r).draws = s.draws := rfl
@[simp] theorem State.completePort_drawCount (s : State) (p : Port) (r : Result) :
    (s.completePort p r).drawCount = s.drawCount := rfl

/-! ### State.stage -/

@[simp] theorem State.stage_cfg (s : State) (p : Port) (r : Request) :
    (s.stage p r).cfg = s.cfg := rfl
@[simp] theorem State.stage_slots (s : State) (p : Port) (r : Request) :
    (s.stage p r).slots = s.slots := rfl
@[simp] theorem State.stage_rx (s : State) (p : Port) (r : Request) :
    (s.stage p r).rx = s.rx := rfl
@[simp] theorem State.stage_txSeqNum (s : State) (p : Port) (r : Request) :
    (s.stage p r).txSeqNum = s.txSeqNum := rfl
@[simp] theorem State.stage_irqMask (s : State) (p : Port) (r : Request) :
    (s.stage p r).irqMask = s.irqMask := rfl
@[simp] theorem State.stage_irqPending (s : State) (p : Port) (r : Request) :
    (s.stage p r).irqPending = s.irqPending := rfl
@[simp] theorem State.stage_syncTimeoutSticky (s : State) (p : Port) (r : Request) :
    (s.stage p r).syncTimeoutSticky = s.syncTimeoutSticky := rfl
@[simp] theorem State.stage_cntSyncTimeout (s : State) (p : Port) (r : Request) :
    (s.stage p r).cntSyncTimeout = s.cntSyncTimeout := rfl
@[simp] theorem State.stage_cntNoMatch (s : State) (p : Port) (r : Request) :
    (s.stage p r).cntNoMatch = s.cntNoMatch := rfl
@[simp] theorem State.stage_cntOverflow (s : State) (p : Port) (r : Request) :
    (s.stage p r).cntOverflow = s.cntOverflow := rfl
@[simp] theorem State.stage_pwr (s : State) (p : Port) (r : Request) :
    (s.stage p r).pwr = s.pwr := rfl
@[simp] theorem State.stage_mem (s : State) (p : Port) (r : Request) :
    (s.stage p r).mem = s.mem := rfl
@[simp] theorem State.stage_history (s : State) (p : Port) (r : Request) :
    (s.stage p r).history = s.history := rfl
@[simp] theorem State.stage_inbound (s : State) (p : Port) (r : Request) :
    (s.stage p r).inbound = s.inbound := rfl
@[simp] theorem State.stage_consumed (s : State) (p : Port) (r : Request) :
    (s.stage p r).consumed = s.consumed := rfl
@[simp] theorem State.stage_moves (s : State) (p : Port) (r : Request) :
    (s.stage p r).moves = s.moves := rfl
@[simp] theorem State.stage_moveCount (s : State) (p : Port) (r : Request) :
    (s.stage p r).moveCount = s.moveCount := rfl
@[simp] theorem State.stage_draws (s : State) (p : Port) (r : Request) :
    (s.stage p r).draws = s.draws := rfl
@[simp] theorem State.stage_drawCount (s : State) (p : Port) (r : Request) :
    (s.stage p r).drawCount = s.drawCount := rfl

/-! ### State.pseqTo -/

@[simp] theorem State.pseqTo_cfg (s : State) (l : PseqStep) :
    (s.pseqTo l).cfg = s.cfg := rfl
@[simp] theorem State.pseqTo_ports (s : State) (l : PseqStep) :
    (s.pseqTo l).ports = s.ports := rfl
@[simp] theorem State.pseqTo_slots (s : State) (l : PseqStep) :
    (s.pseqTo l).slots = s.slots := rfl
@[simp] theorem State.pseqTo_rx (s : State) (l : PseqStep) :
    (s.pseqTo l).rx = s.rx := rfl
@[simp] theorem State.pseqTo_txSeqNum (s : State) (l : PseqStep) :
    (s.pseqTo l).txSeqNum = s.txSeqNum := rfl
@[simp] theorem State.pseqTo_irqMask (s : State) (l : PseqStep) :
    (s.pseqTo l).irqMask = s.irqMask := rfl
@[simp] theorem State.pseqTo_irqPending (s : State) (l : PseqStep) :
    (s.pseqTo l).irqPending = s.irqPending := rfl
@[simp] theorem State.pseqTo_syncTimeoutSticky (s : State) (l : PseqStep) :
    (s.pseqTo l).syncTimeoutSticky = s.syncTimeoutSticky := rfl
@[simp] theorem State.pseqTo_cntSyncTimeout (s : State) (l : PseqStep) :
    (s.pseqTo l).cntSyncTimeout = s.cntSyncTimeout := rfl
@[simp] theorem State.pseqTo_cntNoMatch (s : State) (l : PseqStep) :
    (s.pseqTo l).cntNoMatch = s.cntNoMatch := rfl
@[simp] theorem State.pseqTo_cntOverflow (s : State) (l : PseqStep) :
    (s.pseqTo l).cntOverflow = s.cntOverflow := rfl
@[simp] theorem State.pseqTo_pwr (s : State) (l : PseqStep) :
    (s.pseqTo l).pwr = { s.pwr with step := l } := rfl
@[simp] theorem State.pseqTo_mem (s : State) (l : PseqStep) :
    (s.pseqTo l).mem = s.mem := rfl
@[simp] theorem State.pseqTo_history (s : State) (l : PseqStep) :
    (s.pseqTo l).history = s.history := rfl
@[simp] theorem State.pseqTo_inbound (s : State) (l : PseqStep) :
    (s.pseqTo l).inbound = s.inbound := rfl
@[simp] theorem State.pseqTo_consumed (s : State) (l : PseqStep) :
    (s.pseqTo l).consumed = s.consumed := rfl
@[simp] theorem State.pseqTo_moves (s : State) (l : PseqStep) :
    (s.pseqTo l).moves = s.moves := rfl
@[simp] theorem State.pseqTo_moveCount (s : State) (l : PseqStep) :
    (s.pseqTo l).moveCount = s.moveCount := rfl
@[simp] theorem State.pseqTo_draws (s : State) (l : PseqStep) :
    (s.pseqTo l).draws = s.draws := rfl
@[simp] theorem State.pseqTo_drawCount (s : State) (l : PseqStep) :
    (s.pseqTo l).drawCount = s.drawCount := rfl

/-! ### Accessors -/

theorem State.port_setPort (s : State) (p q : Port) (x : PortState) :
    (s.setPort p x).port q = if p = q then x else s.port q := by
  simp [State.port, State.setPort, Vector.getElem_set, Fin.ext_iff]

@[simp] theorem State.port_setPort_self (s : State) (p : Port) (x : PortState) : (s.setPort p x).port p = x := by
  simp [State.port_setPort]

theorem State.port_setPort_ne (s : State) {p q : Port} (x : PortState) (h : p ≠ q) :
    (s.setPort p x).port q = s.port q := by
  simp [State.port_setPort, h]

theorem State.slot_setSlot (s : State) (i j : SlotIx) (x : Slot) :
    (s.setSlot i x).slot j = if i = j then x else s.slot j := by
  simp [State.slot, State.setSlot, Vector.getElem_set, Fin.ext_iff]

@[simp] theorem State.slot_setSlot_self (s : State) (i : SlotIx) (x : Slot) : (s.setSlot i x).slot i = x := by
  simp [State.slot_setSlot]

theorem State.slot_setSlot_ne (s : State) {i j : SlotIx} (x : Slot) (h : i ≠ j) :
    (s.setSlot i x).slot j = s.slot j := by
  simp [State.slot_setSlot, h]

theorem State.port_completePort (s : State) (p q : Port) (r : Result) :
    (s.completePort p r).port q =
      if p = q then { s.port p with busy := false, done := true, result := r, phase := .idle } else s.port q :=
  State.port_setPort ..

theorem State.port_stage (s : State) (p q : Port) (r : Request) :
    (s.stage p r).port q = if p = q then { s.port p with staging := r } else s.port q :=
  State.port_setPort ..

theorem State.slot_removeSlot (s : State) (i j : SlotIx) :
    (s.removeSlot i).slot j = if i = j then Slot.free else s.slot j :=
  State.slot_setSlot ..

@[simp] theorem State.slot_setPort (s : State) (p : Port) (x : PortState) (j : SlotIx) : (s.setPort p x).slot j = s.slot j := rfl
@[simp] theorem State.hasPort_setPort (s : State) (p : Port) (x : PortState) (q : Port) : (s.setPort p x).hasPort q = s.hasPort q := rfl
@[simp] theorem State.port_setSlot (s : State) (i : SlotIx) (x : Slot) (q : Port) : (s.setSlot i x).port q = s.port q := rfl
@[simp] theorem State.hasPort_setSlot (s : State) (i : SlotIx) (x : Slot) (q : Port) : (s.setSlot i x).hasPort q = s.hasPort q := rfl
@[simp] theorem State.port_emit (s : State) (e : Event) (q : Port) : (s.emit e).port q = s.port q := rfl
@[simp] theorem State.slot_emit (s : State) (e : Event) (j : SlotIx) : (s.emit e).slot j = s.slot j := rfl
@[simp] theorem State.hasPort_emit (s : State) (e : Event) (q : Port) : (s.emit e).hasPort q = s.hasPort q := rfl
@[simp] theorem State.port_popMove (s : State) (q : Port) : s.popMove.port q = s.port q := rfl
@[simp] theorem State.slot_popMove (s : State) (j : SlotIx) : s.popMove.slot j = s.slot j := rfl
@[simp] theorem State.hasPort_popMove (s : State) (q : Port) : s.popMove.hasPort q = s.hasPort q := rfl
@[simp] theorem State.port_popDraw (s : State) (q : Port) : s.popDraw.port q = s.port q := rfl
@[simp] theorem State.slot_popDraw (s : State) (j : SlotIx) : s.popDraw.slot j = s.slot j := rfl
@[simp] theorem State.hasPort_popDraw (s : State) (q : Port) : s.popDraw.hasPort q = s.hasPort q := rfl
@[simp] theorem State.port_consume (s : State) (n : Nat) (q : Port) : (s.consume n).port q = s.port q := rfl
@[simp] theorem State.slot_consume (s : State) (n : Nat) (j : SlotIx) : (s.consume n).slot j = s.slot j := rfl
@[simp] theorem State.hasPort_consume (s : State) (n : Nat) (q : Port) : (s.consume n).hasPort q = s.hasPort q := rfl
@[simp] theorem State.port_answering (s : State) (bytes : List Byte) (q : Port) : (s.answering bytes).port q = s.port q := rfl
@[simp] theorem State.slot_answering (s : State) (bytes : List Byte) (j : SlotIx) : (s.answering bytes).slot j = s.slot j := rfl
@[simp] theorem State.hasPort_answering (s : State) (bytes : List Byte) (q : Port) : (s.answering bytes).hasPort q = s.hasPort q := rfl
@[simp] theorem State.port_transportRead (s : State) (n : Nat) (q : Port) : (s.transportRead n).port q = s.port q := rfl
@[simp] theorem State.slot_transportRead (s : State) (n : Nat) (j : SlotIx) : (s.transportRead n).slot j = s.slot j := rfl
@[simp] theorem State.hasPort_transportRead (s : State) (n : Nat) (q : Port) : (s.transportRead n).hasPort q = s.hasPort q := rfl
@[simp] theorem State.port_transportWrite (s : State) (a : Agent) (bytes : List Byte) (q : Port) : (s.transportWrite a bytes).port q = s.port q := rfl
@[simp] theorem State.slot_transportWrite (s : State) (a : Agent) (bytes : List Byte) (j : SlotIx) : (s.transportWrite a bytes).slot j = s.slot j := rfl
@[simp] theorem State.hasPort_transportWrite (s : State) (a : Agent) (bytes : List Byte) (q : Port) : (s.transportWrite a bytes).hasPort q = s.hasPort q := rfl
@[simp] theorem State.port_removeSlot (s : State) (i : SlotIx) (q : Port) : (s.removeSlot i).port q = s.port q := rfl
@[simp] theorem State.hasPort_removeSlot (s : State) (i : SlotIx) (q : Port) : (s.removeSlot i).hasPort q = s.hasPort q := rfl
@[simp] theorem State.slot_completePort (s : State) (p : Port) (r : Result) (j : SlotIx) : (s.completePort p r).slot j = s.slot j := rfl
@[simp] theorem State.hasPort_completePort (s : State) (p : Port) (r : Result) (q : Port) : (s.completePort p r).hasPort q = s.hasPort q := rfl
@[simp] theorem State.slot_stage (s : State) (p : Port) (r : Request) (j : SlotIx) : (s.stage p r).slot j = s.slot j := rfl
@[simp] theorem State.hasPort_stage (s : State) (p : Port) (r : Request) (q : Port) : (s.stage p r).hasPort q = s.hasPort q := rfl
@[simp] theorem State.port_pseqTo (s : State) (l : PseqStep) (q : Port) : (s.pseqTo l).port q = s.port q := rfl
@[simp] theorem State.slot_pseqTo (s : State) (l : PseqStep) (j : SlotIx) : (s.pseqTo l).slot j = s.slot j := rfl
@[simp] theorem State.hasPort_pseqTo (s : State) (l : PseqStep) (q : Port) : (s.pseqTo l).hasPort q = s.hasPort q := rfl

/-- A port is read through the vector of ports only. -/
theorem State.port_eq (s : State) (p : Port) : s.port p = s.ports[p] := rfl

/-- A slot is read through the vector of slots only. -/
theorem State.slot_eq (s : State) (i : SlotIx) : s.slot i = s.slots[i] := rfl

/-- States whose port vectors agree have the same ports. -/
theorem State.port_congr {s t : State} (h : s.ports = t.ports) (p : Port) : s.port p = t.port p := by
  simp [State.port, h]

/-- States whose slot vectors agree have the same slots. -/
theorem State.slot_congr {s t : State} (h : s.slots = t.slots) (i : SlotIx) : s.slot i = t.slot i := by
  simp [State.slot, h]

/-- States whose parameters agree have the same ports. -/
theorem State.hasPort_congr {s t : State} (h : s.cfg = t.cfg) (p : Port) : s.hasPort p = t.hasPort p := by
  simp [State.hasPort, h]

end Sys2Proof.Machine
end

