-- ==== Sys2Proof/Laws/Ops.lean ====
section
/-! SUPPORT. What each shared operation can do, said once: the stream, admission, the table operations, draws, and the
decoding of an in-flight record. -/

namespace Sys2Proof.Machine

/-! ### The inbound stream -/

@[simp] theorem State.length_streamBytes (s : State) (n : Nat) : (s.streamBytes n).length = n := by
  simp [State.streamBytes]

theorem State.getElem?_streamBytes (s : State) {n i : Nat} (h : i < n) :
    (s.streamBytes n)[i]? = some (s.streamByte i) := by
  simp [State.streamBytes, h]

theorem byteAt_streamBytes (s : State) {n i : Nat} (h : i < n) : byteAt (s.streamBytes n) i = s.streamByte i := by
  simp [byteAt, List.getD_eq_getElem?_getD, State.getElem?_streamBytes s h]

/-- After n bytes are consumed, S[i] is what S[n + i] was. -/
theorem State.streamByte_of_consumed {s t : State} {n : Nat} (h1 : t.inbound = s.inbound.drop n)
    (h2 : t.consumed = s.consumed + n) (i : Nat) : t.streamByte i = s.streamByte (n + i) := by
  simp [State.streamByte, h1, h2, List.getElem?_drop, Nat.add_assoc]

@[simp] theorem State.streamByte_transportRead (s : State) (n i : Nat) :
    (s.transportRead n).streamByte i = s.streamByte (n + i) :=
  State.streamByte_of_consumed rfl rfl i

/-- The stream depends on the listed bytes and the count only. -/
theorem State.streamByte_congr {s t : State} (h1 : s.inbound = t.inbound) (h2 : s.consumed = t.consumed) (i : Nat) :
    s.streamByte i = t.streamByte i := by
  simp [State.streamByte, h1, h2]

/-- The bytes an oracle answers with are the stream's first bytes. -/
theorem State.streamByte_answering (s : State) (bytes : List Byte) {i : Nat} (h : i < bytes.length) :
    (s.answering bytes).streamByte i = bytes[i] := by
  simp [State.streamByte, List.getElem?_append_left h, List.getElem?_eq_getElem h]

/-! ### Transport and memory in one step -/

/-- A read into a host buffer, where it is admitted, and where it is not. -/
theorem State.readToMemory_eq_some {s t : State} {addr n : Nat} (h : s.readToMemory addr n = some t) :
    admitted s.cfg addr n = true ∧
      t = { s with
        inbound := s.inbound.drop n
        consumed := s.consumed + n
        mem := s.mem.write addr (s.streamBytes n)
        history := s.history ++ [.rx .rx (s.streamBytes n)] ++ [.memw .rx addr (s.streamBytes n)] } := by
  unfold State.readToMemory at h
  by_cases ha : admitted s.cfg addr n = true
  · rw [if_pos ha] at h
    exact ⟨ha, (Option.some.inj h).symm⟩
  · rw [if_neg ha] at h
    exact absurd h (by simp)

theorem State.readToMemory_eq_none {s : State} {addr n : Nat} (h : s.readToMemory addr n = none) :
    admitted s.cfg addr n = false := by
  unfold State.readToMemory at h
  by_cases ha : admitted s.cfg addr n = true
  · rw [if_pos ha] at h
    exact absurd h (by simp)
  · simpa using ha

/-- A segment sent from host memory, where it is admitted. -/
theorem State.sendFromMemory_eq_some {s t : State} {a : Agent} {addr n : Nat} {pad : List Byte}
    (h : s.sendFromMemory a addr n pad = some t) :
    admitted s.cfg addr n = true ∧
      t = { s with
        history := s.history ++ [.memr a addr (s.mem.read addr n)] ++ [.tx a (s.mem.read addr n ++ pad)] } := by
  unfold State.sendFromMemory at h
  by_cases ha : admitted s.cfg addr n = true
  · rw [if_pos ha] at h
    exact ⟨ha, (Option.some.inj h).symm⟩
  · rw [if_neg ha] at h
    exact absurd h (by simp)

/-- A read into a host buffer keeps the canonical form of memory. -/
theorem State.readToMemory_wf {s t : State} {addr n : Nat} (h : s.readToMemory addr n = some t)
    (hw : s.mem.wf = true) : t.mem.wf = true := by
  obtain ⟨ha, rfl⟩ := State.readToMemory_eq_some h
  rcases Nat.eq_zero_or_pos n with rfl | hn
  · simpa [State.streamBytes] using hw
  · exact Memory.wf_write hw (by simpa using admitted_bound ha hn)

/-! ### Draws -/

/-- A draw from a list is one of its elements; there is none only from the empty list. -/
theorem choose_mem {α : Type} {l : List α} {d : Nat} {x : α} (h : choose l d = some x) : x ∈ l := by
  match l, h with
  | [y], h => simp [choose] at h; simp [h]
  | y :: z :: t, h => exact List.mem_of_getElem? h

theorem choose_eq_none {α : Type} {l : List α} {d : Nat} (h : choose l d = none) : l = [] := by
  match l, h with
  | [], _ => rfl
  | y :: z :: t, h =>
    have := Nat.mod_lt d (show t.length + 2 > 0 by omega)
    simp only [choose, List.getElem?_eq_none_iff, List.length_cons] at h
    omega

/-- Every element of a list is what some draw gives. -/
theorem exists_choose {α : Type} {l : List α} {x : α} (h : x ∈ l) : ∃ d, choose l d = some x := by
  match l, h with
  | [y], h => exact ⟨0, by simp at h; simp [choose, h]⟩
  | y :: z :: t, h =>
    obtain ⟨i, hi, rfl⟩ := List.getElem_of_mem h
    refine ⟨i, ?_⟩
    have hi' : i < t.length + 2 := by
      simp only [List.length_cons] at hi
      omega
    simp [choose, Nat.mod_eq_of_lt hi', List.getElem?_eq_getElem hi]

/-! ### The Pending-Request Table -/

/-- A free slot is free, and every slot below it is valid. -/
theorem State.freeSlot_spec {s : State} {i : SlotIx} (h : s.freeSlot = some i) :
    (s.slot i).valid = false ∧ ∀ j, j < i → (s.slot j).valid = true := by
  simp only [State.freeSlot, SlotIx.all, List.find?_cons, List.find?_nil] at h
  cases h0 : (s.slot 0).valid <;> cases h1 : (s.slot 1).valid <;> simp [h0, h1] at h <;> subst h <;> simp [h0, h1]

/-- The table is full exactly where no slot is free. -/
theorem State.freeSlot_eq_none_iff {s : State} : s.freeSlot = none ↔ s.ptCount = cap := by
  simp only [State.freeSlot, State.ptCount, SlotIx.all, cap, ← State.slot_eq]
  cases h0 : (s.slot 0).valid <;> cases h1 : (s.slot 1).valid <;> simp [h0, h1]

/-- What REGISTER's insert does, where it has a step. -/
theorem State.insertRequest_spec {s t : State} {p : Port} {e : Entry} (h : s.insertRequest p e = some t) :
    ∃ i, s.freeSlot = some i ∧
      t = (s.setSlot i { valid := true, entry := e, owner := p }).setPort p { s.port p with respDone := false } := by
  unfold State.insertRequest at h
  split at h
  · next i hi => exact ⟨i, hi, (Option.some.inj h).symm⟩
  · exact absurd h (by simp)

theorem State.insertRequest_eq_none {s : State} {p : Port} {e : Entry} (h : s.insertRequest p e = none) :
    s.freeSlot = none := by
  unfold State.insertRequest at h
  split at h
  · exact absurd h (by simp)
  · assumption

/-- Mset: the valid slots that hold the opcode. -/
theorem State.mem_matching {s : State} {opcode : Half} {i : SlotIx} :
    i ∈ s.matching opcode ↔ (s.slot i).valid = true ∧ (s.slot i).entry.expectedOpcode = opcode := by
  have : i ∈ SlotIx.all := by fin_cases i <;> decide
  simp [State.matching, this]

/-- RESOLVE gives a valid slot that holds the opcode. -/
theorem State.resolveSlot_some {s : State} {opcode : Half} {i : SlotIx} (h : s.resolveSlot opcode = some i) :
    (s.slot i).valid = true ∧ (s.slot i).entry.expectedOpcode = opcode :=
  State.mem_matching.mp (choose_mem h)

/-- RESOLVE gives NONE only where no valid slot holds the opcode. -/
theorem State.resolveSlot_none {s : State} {opcode : Half} (h : s.resolveSlot opcode = none) (i : SlotIx) :
    ¬((s.slot i).valid = true ∧ (s.slot i).entry.expectedOpcode = opcode) := by
  intro hi
  have := State.mem_matching.mpr hi
  rw [choose_eq_none h] at this
  exact absurd this (by simp)

/-! ### The sequencer's draw -/

theorem Port.mem_all (p : Port) : p ∈ Port.all := by fin_cases p <;> decide

/-- The drawn port exists and waits in phase POWER. -/
theorem State.drawnPort_some {s : State} {p : Port} (h : s.drawnPort = some p) :
    s.hasPort p = true ∧ (s.port p).phase = .power := by
  have := choose_mem h
  simpa [State.powerPorts, Port.mem_all] using this

/-! ### Lengths -/

theorem align4_mod (n : Nat) : align4 n % 4 = 0 := by unfold align4; omega

theorem le_align4 (n : Nat) : n ≤ align4 n := by unfold align4; omega

theorem align4_lt (n : Nat) : align4 n < n + 4 := by unfold align4; omega

theorem align4_eq_zero {n : Nat} : align4 n = 0 ↔ n = 0 := by unfold align4; omega

/-- L is a multiple of 4 (42_codec.md rule R253). -/
theorem Request.bodyLength_mod (r : Request) : r.bodyLength % 4 = 0 := by
  have h (g : Segment) : g.wireBytes % 4 = 0 := by
    unfold Segment.wireBytes
    split
    · exact align4_mod _
    · rfl
  have h0 := h r.seg0
  have h1 := h r.seg1
  have h2 := h r.seg2
  unfold Request.bodyLength
  omega

end Sys2Proof.Machine
end

