-- ==== Sys2Proof/Laws/PerInstr.lean ====
section
/-! SUPPORT. Statements about every operation as syntax, one lemma a constructor. -/

namespace Sys2Proof.Laws.EncodedLength

/-- 30_encoding.md rules R111, R116, R118 and R120: whatever word an operation has, it is four bytes long; an operation
without a format has none (rule R126). -/
def Statement (i : Instr) : Prop :=
  ∀ (c : Params), (∀ bs, encode c i = some bs → bs.length = 4) ∧ (i.format = none → encode c i = none)

/-- Any operation's bytes are `bytes32` of one word. -/
theorem length_of_encode (c : Params) (i : Instr) (bs : List Byte) (h : encode c i = some bs) : bs.length = 4 := by
  obtain ⟨w, -, rfl⟩ := Option.map_eq_some_iff.mp h
  rfl

theorem sendCommand (exp : Bool) (o : Half) : Statement (.sendCommand exp o) :=
  fun c => ⟨length_of_encode c _, by simp [Instr.format]⟩

theorem powerOn : Statement .powerOn := fun c => ⟨length_of_encode c _, by simp [Instr.format]⟩

theorem powerOff : Statement .powerOff := fun c => ⟨length_of_encode c _, by simp [Instr.format]⟩

theorem illegal (w : Word) : Statement (.illegal w) := fun c => ⟨length_of_encode c _, by simp [Instr.format]⟩

theorem h2nSyncWord : Statement .h2nSyncWord := fun c => ⟨length_of_encode c _, by simp [Instr.format]⟩

theorem h2nCnysWord : Statement .h2nCnysWord := fun c => ⟨length_of_encode c _, by simp [Instr.format]⟩

theorem n2hSyncWord (f : Bool) (s : BitVec 2) : Statement (.n2hSyncWord f s) :=
  fun c => ⟨length_of_encode c _, by simp [Instr.format]⟩

theorem frameHeader (o l : Half) : Statement (.frameHeader o l) :=
  fun c => ⟨length_of_encode c _, by simp [Instr.format]⟩

theorem locate : Statement .locate := fun c => ⟨length_of_encode c _, fun _ => rfl⟩

theorem writeCommand (p : Port) : Statement (.writeCommand p) := fun c => ⟨length_of_encode c _, fun _ => rfl⟩

theorem readResponseBody : Statement .readResponseBody := fun c => ⟨length_of_encode c _, fun _ => rfl⟩

theorem drain (n : Nat) : Statement (.drain n) := fun c => ⟨length_of_encode c _, fun _ => rfl⟩

theorem register (p : Port) (e : Entry) : Statement (.register p e) := fun c => ⟨length_of_encode c _, fun _ => rfl⟩

theorem resolve (o : Half) : Statement (.resolve o) := fun c => ⟨length_of_encode c _, fun _ => rfl⟩

theorem remove (i : SlotIx) : Statement (.remove i) := fun c => ⟨length_of_encode c _, fun _ => rfl⟩

theorem submit (p : Port) (v : Word) : Statement (.submit p v) := fun c => ⟨length_of_encode c _, fun _ => rfl⟩

theorem complete (p : Port) (r : Result) : Statement (.complete p r) := fun c => ⟨length_of_encode c _, fun _ => rfl⟩

theorem onNwpIrq : Statement .onNwpIrq := fun c => ⟨length_of_encode c _, fun _ => rfl⟩

end Sys2Proof.Laws.EncodedLength
end

