-- ==== Sys2Proof/Laws/Safety.lean ====
section
/-! SUPPORT. The invariant against the model's own fields, and a form of it that can be evaluated; where a write of
WRITE_COMMAND leaves its port. -/

namespace Sys2Proof.Machine

/-- The invariant does not read the tapes, the counters of events or the history. -/
theorem State.Inv.congr_tapes {s : State} (h : s.Inv) (history : List Event) (inbound : List Byte) (consumed : Nat)
    (moves : List Move) (moveCount : Nat) (draws : List Nat) (drawCount : Nat) :
    ({ s with
      history := history, inbound := inbound, consumed := consumed, moves := moves, moveCount := moveCount
      draws := draws, drawCount := drawCount } : State).Inv where
  params := h.params
  memory := h.memory
  ports := h.ports
  slots i := let g := h.slots i; ⟨g.free, g.owner_exists, g.owner_awaits, g.owner_not_done, g.one_per_port⟩
  rx := let g := h.rx
    ⟨g.idle_iff, g.reading, g.copying, g.at_rest, g.attempts, g.search, g.misaligned, g.aligned, g.rem_bound,
      g.drain_bound, g.draining, g.matched, g.slot_valid, g.descriptor, g.payload, g.scratch_size⟩
  power := let g := h.power
    ⟨g.idle, g.on_steps, g.off_steps, g.at_rest, g.stopped, g.running, g.wake_width⟩

/-- The invariant reads the parameters, memory, the ports, the table, the receive machine and the power sequencer only. -/
theorem State.Inv.of_eq {s t : State} (h : s.Inv) (hc : t.cfg = s.cfg) (hm : t.mem = s.mem) (hp : t.ports = s.ports)
    (hs : t.slots = s.slots) (hr : t.rx = s.rx) (hw : t.pwr = s.pwr) : t.Inv := by
  cases s; cases t; simp only at hc hm hp hs hr hw; subst hc hm hp hs hr hw
  exact ⟨h.params, h.memory, h.ports, fun i => ⟨(h.slots i).free, (h.slots i).owner_exists, (h.slots i).owner_awaits, (h.slots i).owner_not_done, (h.slots i).one_per_port⟩,
    ⟨h.rx.idle_iff, h.rx.reading, h.rx.copying, h.rx.at_rest, h.rx.attempts, h.rx.search, h.rx.misaligned, h.rx.aligned, h.rx.rem_bound, h.rx.drain_bound, h.rx.draining, h.rx.matched, h.rx.slot_valid, h.rx.descriptor, h.rx.payload, h.rx.scratch_size⟩,
    ⟨h.power.idle, h.power.on_steps, h.power.off_steps, h.power.at_rest, h.power.stopped, h.power.running, h.power.wake_width⟩⟩

/-- The invariant across an update of one port, from what it asks of the port, of its slot and of the sequencer. -/
theorem State.Inv.setPort {s : State} (h : s.Inv) (p : Port) (x : PortState) (hx : PortInv (s.hasPort p) x)
    (hs : ∀ i, (s.slot i).valid = true → (s.slot i).owner = p → x.respDone = false ∧
      ((x.phase = .writing ∧ x.req.exp = true) ∨ x.phase = .waiting ∨ (x.phase = .power ∧ s.pwr.step = .pon6 ∧ s.pwr.port = p)))
    (hp : s.pwr.port = p → (s.pwr.step.poweringOn = true → x.phase = .power ∧ x.req.op = 2#4) ∧
      (s.pwr.step.poweringOff = true → x.phase = .power ∧ x.req.op = 3#4)) : (s.setPort p x).Inv := by
  refine ⟨h.params, h.memory, ?_, ?_, ?_, ?_⟩
  · intro q
    rw [State.port_setPort]
    split
    · next e => subst e; exact hx
    · exact h.ports q
  · intro i
    have hi := h.slots i
    refine ⟨hi.free, hi.owner_exists, ?_, ?_, hi.one_per_port⟩
    · intro hv
      simp only [State.slot_setPort] at hv ⊢
      unfold State.awaits
      rw [State.port_setPort]
      split
      · next e => exact e ▸ (hs i hv e.symm).2
      · exact hi.owner_awaits hv
    · intro hv
      simp only [State.slot_setPort] at hv ⊢
      rw [State.port_setPort]
      split
      · next e => exact (hs i hv e.symm).1
      · exact hi.owner_not_done hv
  · have r := h.rx
    exact ⟨r.idle_iff, r.reading, r.copying, r.at_rest, r.attempts, r.search, r.misaligned, r.aligned, r.rem_bound, r.drain_bound, r.draining, r.matched, r.slot_valid, r.descriptor, r.payload, r.scratch_size⟩
  · have w := h.power
    refine ⟨w.idle, ?_, ?_, w.at_rest, w.stopped, w.running, w.wake_width⟩
    · intro hh
      simp only [State.setPort_pwr] at hh ⊢
      refine ⟨(w.on_steps hh).1, ?_⟩
      rw [State.port_setPort]
      split
      · next e => exact (hp e.symm).1 hh
      · exact (w.on_steps hh).2
    · intro hh
      simp only [State.setPort_pwr] at hh ⊢
      refine ⟨(w.off_steps hh).1, ?_⟩
      rw [State.port_setPort]
      split
      · next e => exact (hp e.symm).2 hh
      · exact (w.off_steps hh).2

/-- The invariant across an update of a port that keeps its phase, its request and `respDone`. -/
theorem State.Inv.setPort_same {s : State} (h : s.Inv) (p : Port) (x : PortState) (h1 : x.phase = (s.port p).phase)
    (h2 : x.req = (s.port p).req) (h3 : x.respDone = (s.port p).respDone) (hx : PortInv (s.hasPort p) x) : (s.setPort p x).Inv := by
  refine State.Inv.setPort h p x hx ?_ ?_
  · intro i hv ho
    have a := (h.slots i).owner_awaits hv
    have b := (h.slots i).owner_not_done hv
    rw [ho] at a b
    exact ⟨by rw [h3, b], by rw [h1, h2]; exact a⟩
  · intro e
    have w := h.power
    refine ⟨fun hh => ?_, fun hh => ?_⟩
    · have := (w.on_steps hh).2; rw [e] at this; rw [h1, h2]; exact this
    · have := (w.off_steps hh).2; rw [e] at this; rw [h1, h2]; exact this

/-- A port in IDLE owns no valid slot, and is not the sequencer's. -/
theorem State.Inv.idle_owns_nothing {s : State} (h : s.Inv) {p : Port} (hi : (s.port p).phase = .idle ∨ (s.port p).phase = .registering) (i : SlotIx)
    (hv : (s.slot i).valid = true) (ho : (s.slot i).owner = p) : False := by
  have a := (h.slots i).owner_awaits hv
  rw [ho] at a
  rcases a with ⟨a, -⟩ | a | ⟨a, -⟩ <;> rcases hi with hi | hi <;> rw [hi] at a <;> cases a

/-- The power sequencer does not work for a port outside its power phase. -/
theorem State.Inv.idle_not_power {s : State} (h : s.Inv) {p : Port} (hi : (s.port p).phase ≠ .power) (e : s.pwr.port = p) :
    s.pwr.step.poweringOn = false ∧ s.pwr.step.poweringOff = false := by
  constructor
  · by_contra hh
    have := (h.power.on_steps (by simpa using hh)).2.1
    rw [e] at this; exact hi this
  · by_contra hh
    have := (h.power.off_steps (by simpa using hh)).2.1
    rw [e] at this; exact hi this

/-- Where a write leaves its port: at the next segment that is sent, or past the last one. -/
theorem PortState.afterWrite_eq_standsAfter {x : PortState} {r : Request} {l : WriteLabel}
    {left : List (Segment × WriteLabel)} (hp : x.phase = .writing) (hl : x.wlabel = l)
    (h : (l = .w2 ∧ left = [(r.seg0, .w3), (r.seg1, .w4), (r.seg2, .w5)]) ∨
      (l = .w3 ∧ left = [(r.seg1, .w4), (r.seg2, .w5)]) ∨ (l = .w4 ∧ left = [(r.seg2, .w5)]) ∨
      (l = .w5 ∧ left = [])) :
    x.afterWrite r l =
      { x with phase := (r.standsAfter l left).1, wlabel := (r.standsAfter l left).2 } := by
  obtain ⟨_, _, _, _, _, _, _, _, _⟩ := x
  simp only at hl hp
  subst hl hp
  rcases h with ⟨rfl, rfl⟩ | ⟨rfl, rfl⟩ | ⟨rfl, rfl⟩ | ⟨rfl, rfl⟩ <;>
    simp only [PortState.afterWrite, PortState.writesDone, Request.standsAfter, List.find?] <;>
    cases r.seg0.sent <;> cases r.seg1.sent <;> cases r.seg2.sent <;> cases r.exp <;> rfl

/-- `PortInv`, evaluated. -/
def PortInv.check (present : Bool) (x : PortState) : Bool :=
  decide ((x.busy = true ↔ x.phase ≠ .idle) ∧ (x.busy = true → x.done = false ∧ x.result = .ok)
    ∧ (present = false → x.phase = .idle) ∧ (x.phase = .registering → x.req.op = 1#4 ∧ x.req.exp = true)
    ∧ (x.phase = .writing → x.req.op = 1#4) ∧ (x.phase = .writing → x.wlabel = .s4 → x.req.exp = false)
    ∧ (x.phase = .waiting → x.req.op = 1#4 ∧ x.req.exp = true)
    ∧ (x.phase = .power → x.req.op = 2#4 ∨ x.req.op = 3#4))

/-- `State.awaits`, evaluated. -/
def State.checkAwaits (s : State) (p : Port) : Bool :=
  decide (((s.port p).phase = .writing ∧ (s.port p).req.exp = true) ∨ (s.port p).phase = .waiting
    ∨ ((s.port p).phase = .power ∧ s.pwr.step = .pon6 ∧ s.pwr.port = p))

theorem State.awaits_of_check {s : State} {p : Port} (h : s.checkAwaits p = true) : s.awaits p := by
  unfold State.checkAwaits at h
  have g := of_decide_eq_true h
  exact g

/-- `SlotInv`, evaluated. -/
def SlotInv.check (s : State) (i : SlotIx) : Bool :=
  decide (((s.slot i).valid = false → s.slot i = Slot.free)
    ∧ ((s.slot i).valid = true → s.hasPort (s.slot i).owner = true ∧ s.checkAwaits (s.slot i).owner = true
      ∧ (s.port (s.slot i).owner).respDone = false)
    ∧ ∀ j, (s.slot i).valid = true → (s.slot j).valid = true → (s.slot i).owner = (s.slot j).owner → i = j)

/-- `RxInv`, evaluated. -/
def RxInv.check (s : State) : Bool :=
  decide ((s.rx.phase = .idle ↔ s.rx.label = .h0) ∧ (s.rx.label.reading = true → s.rx.phase = .readingHeader)
    ∧ (s.rx.label.copying = true → s.rx.phase = .copyingBody)
    ∧ (s.rx.label ≠ .locOk ∧ s.rx.label ≠ .h6 ∧ s.rx.label ≠ .b1) ∧ s.rx.a ≤ syncScanLimit
    ∧ (s.rx.label = .l4 → s.rx.a % 4 = 0 ∧ s.rx.a < syncScanLimit)
    ∧ (s.rx.label = .l8 ∨ s.rx.label = .l12 → s.rx.m ≠ 0) ∧ (s.rx.label = .l9 → s.rx.m = 0)
    ∧ s.rx.rem ≤ 0xFFFF ∧ s.rx.drainLeft ≤ 0xFFFF ∧ (s.rx.label = .d1 → 0 < s.rx.drainLeft)
    ∧ (s.rx.label = .b2 ∨ s.rx.label = .b3 ∨ s.rx.label = .h4 → s.rx.slot.isSome = true)
    ∧ (s.rx.label.copying = true → ∀ i, s.rx.slot = some i → (s.slot i).valid = true)
    ∧ (s.rx.label = .b2 → ∀ i, s.rx.slot = some i → (s.slot i).entry.dcap ≠ 0#16)
    ∧ (s.rx.label = .b3 → ∀ i, s.rx.slot = some i → payloadRead (s.slot i).entry s.rx.rem ≠ 0)
    ∧ s.rx.scratch.length = s.cfg.scratchBytes)

/-- `PowerInv`, evaluated. -/
def PowerInv.check (s : State) : Bool :=
  decide ((s.pwr.step = .idle → s.pwr.state = .off ∨ s.pwr.state = .on)
    ∧ (s.pwr.step.poweringOn = true → s.pwr.state = .poweringOn ∧ (s.port s.pwr.port).phase = .power
      ∧ (s.port s.pwr.port).req.op = 2#4)
    ∧ (s.pwr.step.poweringOff = true → s.pwr.state = .poweringOff ∧ (s.port s.pwr.port).phase = .power
      ∧ (s.port s.pwr.port).req.op = 3#4)
    ∧ (s.pwr.step ≠ .pon1 ∧ s.pwr.step ≠ .pof1) ∧ (s.pwr.state = .off ∨ s.pwr.step = .pof8 → s.pwr.stop = true)
    ∧ (s.pwr.state = .poweringOn ∨ s.pwr.state = .on → s.pwr.stop = false)
    ∧ s.pwr.wakeConfig.toNat < 2 ^ s.cfg.wcW)

/-- The invariant, evaluated. -/
def State.check (s : State) : Bool :=
  s.cfg.wf && s.mem.wf && decide (∀ p, PortInv.check (s.hasPort p) (s.port p) = true)
    && decide (∀ i, SlotInv.check s i = true) && RxInv.check s && PowerInv.check s

/-- A state that passes the evaluated form meets the invariant. -/
theorem State.inv_of_check {s : State} (h : s.check = true) : s.Inv := by
  simp only [State.check, Bool.and_eq_true, decide_eq_true_eq] at h
  obtain ⟨⟨⟨⟨⟨h1, h2⟩, h3⟩, h4⟩, h5⟩, h6⟩ := h
  refine ⟨h1, h2, fun p => ?_, fun i => ?_, ?_, ?_⟩
  · obtain ⟨a, b, c, d, e, f, g, k⟩ := of_decide_eq_true (h3 p)
    exact ⟨a, b, c, d, e, f, g, k⟩
  · obtain ⟨a, b, c⟩ := of_decide_eq_true (h4 i)
    exact ⟨a, fun v => (b v).1, fun v => State.awaits_of_check (b v).2.1, fun v => (b v).2.2, c⟩
  · obtain ⟨a, b, c, d, e, f, g, k, l, m, n, o, p, q, r, t⟩ := of_decide_eq_true h5
    exact ⟨a, b, c, d, e, f, g, k, l, m, n, o, p, q, r, t⟩
  · obtain ⟨a, b, c, d, e, f, g⟩ := of_decide_eq_true h6
    exact ⟨a, b, c, d, e, f, g⟩

end Sys2Proof.Machine
end

