-- ==== Sys2Proof/Laws/Step.lean ====
section
/-! SUPPORT. What one step can do, the word of a CTRL write, and where a search for the synchronization word ends. -/

namespace Sys2Proof.Machine

theorem mapNext_eq_next {f : State → State} {o : Host.Outcome State Fault Refusal} {t : State} :
    mapNext f o = .next t ↔ ∃ u, o = .next u ∧ t = f u := by
  cases o <;> simp [mapNext, eq_comm]

/-- A step that answers a next state ran the fetched operation, or the move itself where none is fetched. -/
theorem step_next {s t : State} (h : step s = .next t) :
    ∃ u, t = s.finish u ∧ ((∃ i, s.fetch = some i ∧ exec i s = .next u) ∨ (s.fetch = none ∧ s.plainMove = .next u)) := by
  unfold step at h
  split at h
  · next i hi => obtain ⟨u, hu, rfl⟩ := mapNext_eq_next.mp h; exact ⟨u, rfl, .inl ⟨i, hi, hu⟩⟩
  · next hi => obtain ⟨u, hu, rfl⟩ := mapNext_eq_next.mp h; exact ⟨u, rfl, .inr ⟨hi, hu⟩⟩

/-- On an illegal word of its own move, ILLEGAL is SUBMIT. -/
theorem illegal_eq_submit {s : State} {p : Port} {w : Word} (hc : s.ctrlWritePort = some p) (hi : isIllegal w = true) :
    execIllegal w s = .next (s.submit p w) := by
  have hd : decodeCtrlWord w = .illegal w := by simp [decodeCtrlWord, hi]
  simp only [execIllegal, hc, hi, if_true, State.submit, State.acceptWord, hd]
  split <;> rfl

/-- The port of a CTRL write exists, and the move writes its CTRL register. -/
theorem State.ctrlWritePort_spec {s : State} {p : Port} (h : s.ctrlWritePort = some p) :
    s.hasPort p = true ∧ ∃ a v, s.nextMove = .host (.write a .word v) ∧ a.toNat = s.cfg.base.toNat + 0x40 * p.val := by
  unfold State.ctrlWritePort at h
  split at h
  · next a v hm =>
    have := List.find?_some h
    simp at this
    exact ⟨this.1, a, v, hm, this.2⟩
  · cases h

/-- Where a search from attempt `a` ends: the match, the next read, or the last attempt. -/
theorem searchFrom_spec (c : Params) (seq : BitVec 8) (fuel : Nat) (w : Window) (a : Nat) (ha : a < 40) (hf : 0 < fuel)
    (hb : a % 4 = 0 ∨ 4 ≤ fuel + a % 4 ) :
    match searchFrom c seq fuel w a with
    | (.found, _, b) => b < 40
    | (.needsRead, _, b) => b % 4 = 0 ∧ b < 40
    | (.timeout, _, b) => b = 40 := by
  induction fuel generalizing w a with
  | zero => omega
  | succ n ih =>
    unfold searchFrom
    by_cases h1 : syncMatch c w.candidate seq = true
    · simp [h1, ha]
    · by_cases h2 : a % 4 = 0
      · simp [h1, h2, ha]
      · by_cases h3 : a + 1 = syncScanLimit
        · simp [h1, h2, h3, syncScanLimit]
        · simp only [h1, h2, h3, if_false]
          simp only [syncScanLimit] at h3
          by_cases h4 : (a+1) % 4 = 0
          · by_cases hn : n = 0
            · subst hn; simp [searchFrom, h4]; omega
            · exact ih w.shift (a+1) (by omega) (by omega) (.inl h4)
          · exact ih w.shift (a+1) (by omega) (by omega) (by right; omega)

/-- What the search right after a read answers. -/
theorem searchAfterRead_spec (c : Params) (seq : BitVec 8) (w : Window) (a : Nat) (ha : a < 40) (h4 : a % 4 = 0) :
    match searchAfterRead c seq w a with
    | (.found, _, b) => b < 40
    | (.needsRead, _, b) => b % 4 = 0 ∧ b < 40
    | (.timeout, _, b) => b = 40 := by
  unfold searchAfterRead
  by_cases h3 : a + 1 = syncScanLimit
  · simp [h3, syncScanLimit]
  · simp only [h3, if_false]
    simp only [syncScanLimit] at h3
    exact searchFrom_spec c seq 4 w.shift (a+1) (by omega) (by omega) (by right; omega)

end Sys2Proof.Machine
end

