-- ==== Sys2Proof/Tests/Slice0.lean ====
section
/-! SUPPORT. Tests of the model against the vectors of 95_test_vectors.md and the examples of the rules, each about one
step, and for every statement with hypotheses a state and operands that meet them. Expected values come from spec/. -/

namespace Sys2Proof.Tests

open Sys2Proof Sys2Proof.Machine

/-! ## Helpers -/

/-- The next state, where there is one. -/
def nextOf (o : Host.Outcome State Fault Refusal) : Option State :=
  match o with
  | .next s => some s
  | .fault _ => none
  | .refused _ => none

/-- What an operation's next state says. -/
def after {α : Type} (i : Instr) (s : State) (f : State → α) : Option α := (nextOf (exec i s)).map f

/-- The state after reset, with these moves next. -/
def moving (ms : List Move) : State := { State.reset with moves := ms }

/-- A host write of 32 bits. -/
def wr32 (addr v : Nat) : Move := .host (.write (BitVec.ofNat 32 addr) .word (BitVec.ofNat 32 v))

/-- The bytes of numbers. -/
def bytes (l : List Nat) : List Byte := l.map (BitVec.ofNat 8)

/-- The RX engine at a label, with a stream; the interrupt is masked, as it is during a run. -/
def rxAt (l : RxLabel) (ph : RxPhase) (stream : List Nat) : State :=
  { State.reset with inbound := bytes stream, rx := { State.reset.rx with label := l, phase := ph } }

/-- The request of program P4 in 95_test_vectors.md, without its segments. -/
def request : Request :=
  { Request.zero with
    op := 1#4, exp := true, cmdOpcode := 0x0003#16, expOpcode := 0x0004#16
    rdescBase := 0x20000100#32, rdescCap := 4#16, rpayBase := 0x20000200#32, rpayCap := 8#16, rpayPresent := true }

/-- A present segment. -/
def seg (base len : Nat) : Segment := { base := BitVec.ofNat 32 base, len := BitVec.ofNat 16 len, present := true }

/-- A port that runs a request. -/
def running (r : Request) (ph : Phase) (l : WriteLabel) : PortState :=
  { PortState.reset with req := r, staging := r, phase := ph, wlabel := l, busy := true }

/-- Port 0 runs a request, and is the next to move. -/
def sending (r : Request) (ph : Phase) (l : WriteLabel) : State :=
  (moving [.port 0]).setPort 0 (running r ph l)

/-- The entry of the example of 45_receive_handler.md rule R360. -/
def entry1 : Entry where
  expectedOpcode := 0x0001#16
  dbase := 0x20000100#32
  dcap := 4#16
  ppresent := true
  pbase := 0x20000200#32
  pcap := 16#16

/-- A valid slot. -/
def held (e : Entry) (p : Port) : Slot := { valid := true, entry := e, owner := p }

/-- Port 0 waits for the response that slot 0 registers. -/
def waiting (s : State) : State :=
  (s.setPort 0 (running { request with expOpcode := 0x0001#16 } .waiting .w1)).setSlot 0 (held entry1 0)

/-- The body of a response comes next, for slot 0 with an entry. -/
def bodyAt (l : RxLabel) (e : Entry) (len rem : Nat) (stream : List Nat) : State :=
  let s := (rxAt l .copyingBody stream).setSlot 0 (held e 0)
  { s with rx := { s.rx with len := BitVec.ofNat 16 len, rem := rem, slot := some 0 }, moves := [.rx] }

/-- The sequencer at a step, for port 0. -/
def powerAt (l : PseqStep) (st : PseqState) (op : BitVec 4) : State :=
  let s := (moving [.sequencer]).setPort 0 (running { Request.zero with op := op } .power .w1)
  { s with pwr := { s.pwr with step := l, state := st, stop := decide (st = .off ∨ l = .pof8) } }

/-- The bare N2H sync word of the test configuration. -/
def sync : List Nat := [0x18, 0x2D, 0x3C, 0x4B]

/-! ## Ill-formed operations are refused by WellFormed -/

theorem test_wf_illegal : (Instr.illegal 0x00000001#32).wf Params.tc = false := by decide
theorem test_wf_n2hSyncWord : (Instr.n2hSyncWord false 1#2).wf Params.tc = false := by decide
theorem test_wf_writeCommand : (Instr.writeCommand 2).wf Params.tc = false := by decide
theorem test_wf_drain : (Instr.drain 0x10000).wf Params.tc = false := by decide
theorem test_wf_register : (Instr.register 2 emptyEntry).wf Params.tc = false := by decide
theorem test_wf_submit : (Instr.submit 7 0#32).wf Params.tc = false := by decide
theorem test_wf_complete : (Instr.complete 2 .ok).wf Params.tc = false := by decide

/-- The bounds of the parameters (00_scope.md rule R12) are checked too. -/
theorem test_wf_params :
    Params.tc.wf = true ∧ { Params.tc with numPorts := 9 }.wf = false ∧ { Params.tc with n2hSync := 4#32 }.wf = false ∧
      { Params.tc with scratchBytes := 3 }.wf = false ∧ { Params.tc with hostmemOk := [(0, 0x40000001)] }.wf = false := by
  decide

/-! ## Decoding, from words written out bit by bit (30_encoding.md) -/

/-- Rule R112: CMD_OPCODE 0x0001, RSV 0, EXP 1, OP 1. -/
theorem test_decode_sendCommand :
    decodeCtrlWord 0b00000000000000010000000000010001#32 = .sendCommand true 0x0001#16 := by decide

/-- Rule R113. -/
theorem test_decode_powerOn : decodeCtrlWord 0b00000000000000000000000000000010#32 = .powerOn := by decide
theorem test_decode_powerOff : decodeCtrlWord 0b00000000000000000000000000000011#32 = .powerOff := by decide

/-- Rule R114, each of its three cases: OP 0, OP 15, OP 1 with RSV, OP 2 with bit 4. -/
theorem test_decode_illegal :
    ([0x00000000#32, 0x0000000F#32, 0b00000000000000000000000000100001#32, 0x00008001#32, 0x00000012#32,
      0x80000003#32].all fun w => decide (decodeCtrlWord w = .illegal w)) = true := by decide

/-- Rule R116. -/
theorem test_decode_h2nSyncWord :
    decode Params.tc .h2n (bytes [0x21, 0x43, 0x34, 0x12]) = .ok (.h2nSyncWord, []) := by decide
theorem test_decode_h2nCnysWord :
    decode Params.tc .h2n (bytes [0x65, 0x87, 0x78, 0x56]) = .ok (.h2nCnysWord, []) := by decide

/-- Rule R118: the bare form, a sequenced form, and a word that is neither. -/
theorem test_decode_n2hSyncWord :
    decode Params.tc .n2h (bytes [0x18, 0x2D, 0x3C, 0x4B]) = .ok (.n2hSyncWord false 0#2, []) ∧
      decode Params.tc .n2h (bytes [0x1E, 0x2D, 0x3C, 0x4B]) = .ok (.n2hSyncWord true 2#2, []) ∧
      decode Params.tc .n2h (bytes [0x19, 0x2D, 0x3C, 0x4B]) = .error .notAnN2hSyncWord := by decide

/-- Rule R120, with bytes behind the header. -/
theorem test_decode_frameHeader :
    decode Params.tc .header (bytes [0x34, 0x12, 0xFC, 0xFF, 0xAA]) = .ok (.frameHeader 0x1234#16 0xFFFC#16, [0xAA#8]) ∧
      decode Params.tc .header (bytes [0x34, 0x12, 0xFC]) = .error .tooShort := by decide

/-- Rule R126: the rows without an encoding have none. -/
theorem test_encode_internal :
    ∀ i ∈ [Instr.locate, .writeCommand 0, .readResponseBody, .drain 1, .register 0 emptyEntry, .resolve 0#16, .remove 0,
      .submit 0 0#32, .complete 0 .ok, .onNwpIrq], encode Params.tc i = none := by decide

theorem test_table_word :
    decodeTableWord 32 0x00010011 = some (.sendCommand true 1#16) ∧ decodeTableWord 32 2 = some .powerOn ∧
      decodeTableWord 32 3 = some .powerOff ∧ decodeTableWord 32 0 = some (.illegal 0#32) := by decide

/-- The placed word is the operation that the next step runs. -/
theorem test_withFetchWord :
    ∀ w ∈ [0x00010001, 0x00010011, 2, 3, 0, 0x21],
      (State.reset.withFetchWord 32 w).fetch = decodeTableWord 32 w ∧
        (nextOf (step (State.reset.withFetchWord 32 w))).isSome = true := by decide

/-! ## Operations -/

/-- V-SM-1 to V-SM-11. -/
theorem test_syncMatch :
    ([(0x4B3C2D18#32, 0#8), (0x4B3C2D18#32, 3#8), (0x4B3C2D1C#32, 0#8), (0x4B3C2D1C#32, 4#8), (0x4B3C2D1D#32, 1#8),
      (0x4B3C2D1F#32, 255#8)].all fun x => syncMatch Params.tc x.1 x.2) = true ∧
    ([(0x4B3C2D1D#32, 0#8), (0x4B3C2D19#32, 1#8), (0x4B3C2D14#32, 0#8), (0x56788765#32, 1#8), (0xCB3C2D18#32, 0#8)].any
      fun x => syncMatch Params.tc x.1 x.2) = false := by decide

/-- V-LOC-2: the read at a = 0, the shift and the match at offset 1, with the rebase. -/
theorem test_locate_search :
    after .locate
      (let s := rxAt .l4 .readingHeader [0x4B, 0xA0, 0xA1, 0xA2]
       { s with rx := { s.rx with window := Window.zero.setLow (bytes [0xEE, 0x18, 0x2D, 0x3C]) } })
      (fun t => (t.rx.label, t.rx.a, t.rx.m, t.rx.window.candidate, t.txSeqNum)) =
    some (.l8, 1, 1, 0x00A2A1A0#32, 0#8) := by decide

/-- V-LOC-10: word A ends the skip loop, and tx_seq_num wraps. -/
theorem test_locate_sequence :
    after .locate { rxAt .l9 .readingHeader [0xA0, 0xA1, 0xA2, 0xA3] with txSeqNum := 255#8 }
      (fun t => (t.rx.label, t.rx.window.candidate, t.txSeqNum)) = some (.l11, 0xA3A2A1A0#32, 0#8) := by decide

/-- V-LOC-9 and V-LOC-11: a stale sequenced word is garbage, and word A in the skip loop; the right one is neither. -/
theorem test_n2hSyncWord :
    after (.n2hSyncWord true 1#2) (rxAt .l2 .readingHeader []) (fun t => t.rx.label) = some .l4 ∧
      after (.n2hSyncWord true 0#2) (rxAt .l2 .readingHeader []) (fun t => t.rx.label) = some .l9 ∧
      after (.n2hSyncWord true 1#2) (rxAt .l9 .readingHeader []) (fun t => (t.rx.label, t.rx.window.candidate)) =
        some (.l11, 0x4B3C2D1D#32) := by decide

/-- 30_encoding.md rule R116, with its le32 values; a port that does not exist sends nothing (10_state.md rule R30). -/
theorem test_h2n_words :
    h2nSyncValue = 0x12344321#32 ∧ h2nCnysValue = 0x56788765#32 ∧
      after .h2nSyncWord (moving [.port 1]) State.outbound = some (bytes [0x21, 0x43, 0x34, 0x12]) ∧
      after .h2nSyncWord (moving [.port 2]) State.outbound = some [] ∧
      after .h2nCnysWord State.reset State.outbound = some (bytes [0x65, 0x87, 0x78, 0x56]) := by decide

/-- V-LOC-2's header and label; V-SRC-1's header write. -/
theorem test_frameHeader :
    after (.frameHeader 0x0001#16 0x0008#16)
        (let s := rxAt .l11 .readingHeader []
         { s with moves := [.rx], rx := { s.rx with m := 1 } })
        (fun t => (t.rx.label, t.rx.window.headerOpcode, t.rx.window.headerLength)) = some (.l12, 1#16, 8#16) ∧
      after (.frameHeader 0x0001#16 0x0004#16) (moving [.port 0]) State.outbound =
        some (bytes [0x01, 0x00, 0x04, 0x00]) := by decide

/-- V-COD-3: L counts each segment's padding. -/
theorem test_writeCommand_header :
    after (.writeCommand 0)
      (sending { request with cmdOpcode := 5#16, seg0 := seg 0x20000000 1, seg2 := seg 0x20000010 1 } .writing .w2)
      (fun t => (t.outbound, (t.port 0).wlabel)) = some (bytes [0x05, 0x00, 0x08, 0x00], .w3) := by decide

/-- P1: the bytes of the segment, its padding, and the port after its last write. -/
theorem test_writeCommand_segment :
    after (.writeCommand 0)
      { sending { request with exp := false, seg0 := seg 0x20000000 2 } .writing .w3 with
        mem := [(0x20000000, 0xAA#8), (0x20000001, 0xBB#8)] }
      (fun t => (t.outbound, (t.port 0).wlabel, (t.port 0).phase)) =
    some (bytes [0xAA, 0xBB, 0x00, 0x00], .s4, .writing) := by decide

/-- V-RRB-5: eight bytes go to the payload buffer, one past its capacity. -/
theorem test_readResponseBody_payload :
    after .readResponseBody
      (bodyAt .b3 { entry1 with dcap := 2#16, pcap := 7#16 } 8 6 [1, 2, 3, 4, 5, 6, 7, 8, 9])
      (fun t => (t.consumed, t.mem.read 0x20000200 9, t.rx.label, t.cntOverflow)) =
    some (8, bytes [1, 2, 3, 4, 5, 6, 7, 8, 0], .h4, 0#32) := by decide

/-- V-RRB-1: NoPendingMatch is counted and the whole length is drained. -/
theorem test_readResponseBody_none :
    after .readResponseBody
      (let s := rxAt .b1 .copyingBody []
       { s with rx := { s.rx with len := 8#16 } })
      (fun t => (t.cntNoMatch, t.rx.label, t.rx.drainLeft)) = some (1#32, .d1, 8) := by decide

/-- V-DRN-1's first read and V-DRN-4. -/
theorem test_drain :
    after (.drain 100) (rxAt .d1 .copyingBody (List.range 64)) (fun t => (t.consumed, t.rx.drainLeft)) = some (64, 36) ∧
      after (.drain 5) (rxAt .d1 .copyingBody [1, 2, 3, 4, 5]) (fun t => (t.consumed, t.rx.drainLeft)) = some (5, 0) := by
  decide

/-- V-TBL-1 and V-TBL-2. -/
theorem test_register :
    after (.register 0 { emptyEntry with expectedOpcode := 1#16, dbase := 0x20000100#32, dcap := 4#16 }) State.reset
        (fun t => t.readReg (.ptSlot 0)) = some 0x00010001#32 ∧
      after (.register 1 { emptyEntry with expectedOpcode := 2#16 }) (State.reset.setSlot 0 (held entry1 0))
        (fun t => t.readReg (.ptSlot 1)) = some 0x00020003#32 := by decide

/-- V-TBL-3 and V-TBL-4. -/
theorem test_resolve :
    (∀ d ∈ [0, 1], after (.resolve 2#16) { (State.reset.setSlot 0 (held entry1 0)).setSlot 1
        (held { entry1 with expectedOpcode := 2#16 } 1) with draws := [d] } (fun t => t.rx.slot) = some (some 1)) ∧
      after (.resolve 3#16) { State.reset.setSlot 0 (held entry1 0) with draws := [0] } (fun t => t.rx.slot) = some none ∧
      ∀ d ∈ [(0 : SlotIx), 1], after (.resolve 1#16) { (State.reset.setSlot 0 (held entry1 0)).setSlot 1
        (held entry1 1) with draws := [d.val] } (fun t => t.rx.slot) = some (some d) := by decide

/-- The example of 43_pending_table.md rule R283. -/
theorem test_remove :
    after (.remove 0) ((State.reset.setSlot 0 (held entry1 0)).setSlot 1 (held entry1 1))
      (fun t => (t.ptCount, t.freeSlot)) = some (1, some 0) := by decide

/-- V-DSP-1 and V-DSP-7. -/
theorem test_submit :
    after (.submit 0 0x00010011#32) (State.reset.writeReg (.expOpcode 0) 2#32)
        (fun t => (t.readReg (.status 0), (t.port 0).req.expOpcode)) = some (0x00000101#32, 2#16) ∧
      after (.submit 0 0x00000002#32) (waiting State.reset)
        (fun t => (t.readReg (.status 0), t.readReg (.ctrl 0), (t.port 0).req.op)) = some (0x00000301#32, 2#32, 1#4) := by
  decide

/-- V-DSP-3, as a step, and 10_state.md rule R62's event. -/
theorem test_illegal :
    (nextOf (step (moving [wr32 0x40000000 0x21]))).map (fun t => (t.readReg (.status 0), t.history)) =
      some (0x00000012#32, [.regWrite 0x40000000#32 0x21#32]) := by decide

/-- V-DSP-8 and V-DSP-9. -/
theorem test_statusClr :
    (nextOf (exec (.complete 0 .ok) State.reset)).map
      (fun s => [2, 1].map fun v => (nextOf (step { s with moves := [wr32 0x40000034 v] })).map
        fun t => t.readReg (.status 0)) = some [some 0#32, some 2#32] := by decide

/-- 44_dispatcher.md rule R323. -/
theorem test_complete :
    after (.complete 1 .illegalOp) State.reset (fun t => (t.readReg (.status 1), t.readReg (.status 0))) =
      some (0x00000012#32, 0#32) := by decide

/-- P4, step 1, and the COMPLETE of a port whose response has come. -/
theorem test_sendCommand :
    after (.sendCommand true 3#16) (sending request .registering .w1)
        (fun t => (t.readReg (.ptSlot 0), t.readReg (.status 0))) = some (0x00040001#32, 0x00000201#32) ∧
      after (.sendCommand true 3#16)
        ((moving [.port 0]).setPort 0 { running request .waiting .w1 with respDone := true })
        (fun t => t.readReg (.status 0)) = some 0x00000002#32 := by decide

/-- H0 of V-RXH-1. -/
theorem test_onNwpIrq_entry :
    after .onNwpIrq { State.reset with irqMask := false, irqPending := true }
      (fun t => (t.irqPending, t.irqMask, t.rx.phase, t.rx.label, t.history)) =
    some (false, true, .readingHeader, .l1, [.level .irqMask true]) := by decide

/-- H4 of V-RXH-1. -/
theorem test_onNwpIrq_complete :
    after .onNwpIrq (waiting (bodyAt .h4 entry1 8 0 []))
      (fun t => ((t.port 0).respDone, t.readReg (.ptSlot 0), t.rx.label)) = some (true, 0#32, .h5) := by decide

/-- P2: the acceptance with PON1, and PON5. -/
theorem test_powerOn :
    after .powerOn (powerAt .idle .off 2#4) (fun t => (t.pwr.state, t.pwr.stop, t.pwr.step)) =
        some (.poweringOn, false, .pon2) ∧
      after .powerOn (powerAt .pon5 .poweringOn 2#4) (fun t => (t.readReg (.ptSlot 0), t.pwr.step)) =
        some (0x00080001#32, .pon6) := by decide

/-- P3: the acceptance with POF1, and POF8. -/
theorem test_powerOff :
    after .powerOff (powerAt .idle .on 3#4) (fun t => (t.pwr.state, t.history)) =
        some (.poweringOff, [.pulse .oobTrigger]) ∧
      after .powerOff (powerAt .pof8 .poweringOff 3#4) (fun t => (t.pwr.state, t.readReg (.status 0), t.history)) =
        some (.off, 0x00000002#32, [.settle]) := by decide

/-- V-RXH-2: a write of 1 to GSTATUS bit 2 clears it; bit 0 is read-only. -/
theorem test_gstatus :
    [4, 1].map (fun v =>
      (nextOf (step { moving [wr32 0x40000200 v] with syncTimeoutSticky := true })).map fun t => t.readReg .gstatus) =
      [some 1#32, some 5#32] := by decide

/-- V-RST-1's reserved address, and 10_state.md rule R58's refusal. -/
theorem test_register_range :
    (nextOf (step (moving [.host (.read 0x4000021C#32 .word)]))).map (fun t => t.history) =
        some [.regRead 0x4000021C#32 0#32] ∧
      ∀ h ∈ [HostMove.read 0x40000001#32 .word, .read 0x40000000#32 .half, .write 0x400003FF#32 .byte 0#32],
        nextOf (step (moving [.host h])) = none := by decide

/-! ## Witnesses for the hypotheses of the statements

A witness of a statement `∀ s t, s.Inv → step s = .next t → …` is a state that meets the invariant with the state that its
step gives. -/

/-- A frame with opcode 0x0001 and four body bytes, k repeated sync words, behind g bytes of garbage. -/
def frame (g k : Nat) : List Nat :=
  List.replicate g 0 ++ (List.range (k + 1)).flatMap (fun _ => sync)
    ++ [0xA0, 0xA1, 0xA2, 0xA3, 0x01, 0x00, 0x04, 0x00] ++ List.replicate 8 0xF0

/-- An interrupt is pending and unmasked, and the stream holds these bytes. -/
def interrupted (stream : List Nat) : State :=
  { State.reset with irqMask := false, irqPending := true, inbound := bytes stream, draws := [0], moves := [.rx] }

/-- Three sent segments of lengths 5, 3 and 8 (V-COD-4). -/
def threeSegments : Request :=
  { request with seg0 := seg 0x20000000 5, seg1 := seg 0x20000010 3, seg2 := seg 0x2000FFF8 8 }

/-- The largest body and the least that is refused (V-COD-7, V-COD-8). -/
def longest : Request := { request with exp := false, seg0 := seg 0x20000000 0xFFFC }
def tooLong : Request := { request with exp := false, seg0 := seg 0x20000000 0xFFFD }

theorem witness_DecodeEncodeRoundTrip :
    ([Instr.sendCommand true 0xFFFF#16, .powerOn, .powerOff, .illegal 0#32, .h2nSyncWord, .h2nCnysWord,
      .n2hSyncWord false 0#2, .n2hSyncWord true 3#2, .frameHeader 0#16 0xFFFF#16].all fun i =>
        i.wf Params.tc && i.format.isSome && (encode Params.tc i).isSome) = true := by decide

theorem witness_EncodeDecodeRoundTrip :
    decodeWord Params.tc .ctrl 2#32 = .ok .powerOn ∧ decodeWord Params.tc .h2n h2nSyncValue = .ok .h2nSyncWord ∧
      decodeWord Params.tc .n2h 0x4B3C2D1C#32 = .ok (.n2hSyncWord true 0#2) ∧
      decodeWord Params.tc .header 0#32 = .ok (.frameHeader 0#16 0#16) := by decide

theorem witness_SyncMatchAcceptsTwoWords : Params.tc.wf = true := by decide

/-- The last port that exists, one that does not, and no port. -/
theorem witness_HostSyncWordsTransmitted :
    (moving [.port 1]).nextMove = .port 1 ∧ (moving [.port 1]).hasPort 1 = true ∧
      (moving [.port 2]).nextMove = .port 2 ∧ (moving [.port 2]).hasPort 2 = false ∧
      (moving [.rx]).nextMove = .rx := by decide

/-- LOCATE at L4 of attempt `a`, with the tag 0x18 in each byte of the sync word, so that it can be met in part. -/
def atL4 (a : Nat) (w : List Nat) : State :=
  let s := rxAt .l4 .readingHeader []
  { s with
    cfg := { s.cfg with n2hSync := 0x18181818#32 }
    rx := { s.rx with a := a, window := s.rx.window.setLow (bytes w) } }

/-- L4 at its first and its last attempt: the bare word met at each of its three offsets, and at none of them. -/
theorem witness_N2hSyncWordAnswersLocate_l4 :
    let c := fun (w : List Nat) => let old := (atL4 0 w).rx.window
      (syncMatch (atL4 0 w).cfg (le32 old.w1 old.w2 old.w3 0x18#8) 0#8,
        syncMatch (atL4 0 w).cfg (le32 old.w2 old.w3 0x18#8 0x18#8) 0#8,
        syncMatch (atL4 0 w).cfg (le32 old.w3 0x18#8 0x18#8 0x18#8) 0#8)
    (atL4 0 []).cfg.wf = true ∧ n2hSyncValue (atL4 0 []).cfg false 0#2 = 0x18181818#32 ∧
      (atL4 0 []).rx.label = .l4 ∧ (atL4 0 []).rx.a % 4 = 0 ∧ (atL4 36 []).rx.a + 4 = 40 ∧
      (atL4 32 []).rx.a + 4 < 40 ∧ (c [0, 0x18, 0x18, 0x18]).1 = true ∧ c [0, 0, 0x18, 0x18] = (false, true, true) ∧
      c [0, 0, 0, 0x18] = (false, false, true) ∧ c [0, 0, 0, 0] = (false, false, false) := by decide

/-- L2, L9 and L10 with an accepted word and with one that is not accepted. -/
theorem witness_N2hSyncWordAnswersLocate :
    (rxAt .l2 .readingHeader []).cfg.wf = true ∧ (rxAt .l2 .readingHeader []).rx.label = .l2 ∧
      (rxAt .l9 .readingHeader []).rx.label = .l9 ∧ (rxAt .l10 .readingHeader []).rx.label = .l10 ∧
      (0#2 : BitVec 2) = (rxAt .l2 .readingHeader []).txSeqNum.extractLsb' 0 2 ∧
      ¬((true : Bool) = false ∨ (3#2 : BitVec 2) = (rxAt .l2 .readingHeader []).txSeqNum.extractLsb' 0 2) := by decide

theorem witness_FrameHeaderBothWays :
    (moving [.port 1]).nextMove = .port 1 ∧ (moving [.port 1]).hasPort 1 = true ∧
      (moving [.port 2]).nextMove = .port 2 ∧ (moving [.port 2]).hasPort 2 = false ∧ ({ rxAt .l11 .readingHeader [] with moves := [.rx] }).nextMove = .rx ∧
      ({ rxAt .l11 .readingHeader [] with moves := [.rx] }).rx.label = .l11 := by decide

/-- L1; a read of four bytes; L8 and L12 at m = 0 and m = 3. -/
theorem witness_LocateSteps :
    let at_ := fun (l : RxLabel) (m : Fin 4) => { (rxAt l .readingHeader []).rx with m := m }
    (at_ .l1 0).label = .l1 ∧ (at_ .l4 0).label = .l4 ∧ (at_ .l8 0).label = .l8 ∧ (at_ .l8 0).m.val = 0 ∧
      (at_ .l8 3).m.val = 3 ∧ (at_ .l12 0).label = .l12 ∧ (at_ .l12 0).m = 0 ∧ (at_ .l12 3).m ≠ 0 := by decide

theorem witness_LocateTimesOut :
    (rxAt .l1 .readingHeader (List.replicate 44 0)).rx.label = .l1 ∧
      ∀ j, j < 40 → (rxAt .l1 .readingHeader (List.replicate 44 0)).acceptsAt j = false := by decide +kernel

/-- The first and the last accepted offset, and repeated sync words. -/
theorem witness_LocateSucceeds :
    (rxAt .l1 .readingHeader (frame 0 0)).syncAt 0 0 ∧ (rxAt .l1 .readingHeader (frame 39 0)).syncAt 39 0 ∧
      (rxAt .l1 .readingHeader (frame 5 2)).syncAt 5 2 := by decide +kernel

/-- W1 with the largest body, W2, and each segment at a boundary of HOSTMEM_OK. -/
theorem witness_WriteCommandSteps :
    let at_ := fun (r : Request) (l : WriteLabel) => sending r .writing l
    (at_ longest .w1).hasPort 0 = true ∧ ((at_ longest .w1).port 0).phase = .writing ∧
      ((at_ longest .w1).port 0).wlabel = .w1 ∧ longest.bodyLength ≤ 0xFFFF ∧
      ((at_ longest .w2).port 0).wlabel = .w2 ∧ ((at_ threeSegments .w3).port 0).wlabel = .w3 ∧
      ((at_ threeSegments .w4).port 0).wlabel = .w4 ∧ ((at_ threeSegments .w5).port 0).wlabel = .w5 ∧
      ∀ g ∈ [threeSegments.seg0, threeSegments.seg1, threeSegments.seg2],
        g.present = true ∧ 0 < g.len.toNat ∧ admitted Params.tc g.base.toNat g.len.toNat = true := by decide

theorem witness_WriteCommandEmitsFrame :
    (sending threeSegments .writing .w1).hasPort 0 = true ∧
      ((sending threeSegments .writing .w1).port 0).phase = .writing ∧
      ((sending threeSegments .writing .w1).port 0).wlabel = .w1 ∧ threeSegments.bodyLength ≤ 0xFFFF ∧
      threeSegments.admittedSegments Params.tc ∧ request.admittedSegments Params.tc ∧ request.sentCount = 0 := by decide

theorem witness_FrameAlignment :
    threeSegments.seg0.sent = true ∧ threeSegments.seg1.sent = true ∧ threeSegments.seg2.sent = true := by decide

theorem witness_RefusedOnlyForLength :
    (sending tooLong .writing .w1).hasPort 0 = true ∧ ((sending tooLong .writing .w1).port 0).phase = .writing ∧
      ((sending tooLong .writing .w1).port 0).wlabel = .w1 ∧
      0xFFFF < ((sending tooLong .writing .w1).port 0).req.bodyLength ∧
      (sending tooLong .writing .w1).nextMove = .port 0 ∧ ((sending tooLong .writing .w1).port 0).req.op = 1#4 := by
  decide

/-- Each segment one byte past HOSTMEM_OK, and each response buffer. -/
theorem witness_UnadmittedAccessIsStuck :
    let g := seg 0x2000FFF8 9
    (sending { request with seg0 := g } .writing .w3).hasPort 0 = true ∧
      ((sending { request with seg0 := g } .writing .w3).port 0).wlabel = .w3 ∧
      ((sending { request with seg1 := g } .writing .w4).port 0).wlabel = .w4 ∧
      ((sending { request with seg2 := g } .writing .w5).port 0).wlabel = .w5 ∧ g.sent = true ∧
      admitted Params.tc g.base.toNat g.len.toNat = false ∧
      (bodyAt .b2 { entry1 with dbase := 0x1FFFFFFF#32 } 8 4 []).rx.slot = some 0 ∧
      admitted Params.tc 0x1FFFFFFF 4 = false ∧
      payloadRead { entry1 with pbase := 0x2000FFFD#32 } 4 = 4 ∧ admitted Params.tc 0x2000FFFD 4 = false := by decide

/-- A stuck port and a stuck RX engine in states that meet the invariant, whose own move comes and then another
agent's. -/
theorem witness_UnadmittedAccessIsStuck_steps :
    let p := sending { request with exp := false, seg0 := seg 0x2000FFF8 9 } .writing .w3
    let r := { (waiting (bodyAt .b2 entry1 8 4 [])).setSlot 0 (held { entry1 with dbase := 0x1FFFFFFF#32 } 0) with
      moves := [.rx, .env .irq] }
    (p.Inv ∧ p.nextMove = .port 0) ∧ r.Inv ∧ r.nextMove = .rx ∧ r.rx.slot = some 0 ∧
      ∃ t, step { r with moves := [.env .irq] } = .next t :=
  ⟨⟨State.inv_of_check (by decide), by decide⟩, State.inv_of_check (by decide), by decide, by decide, _, rfl⟩

theorem witness_DrainStep : 0 < 1 ∧ (1 : Nat) < State.reset.cfg.scratchBytes ∧ ¬65 < State.reset.cfg.scratchBytes := by
  decide

theorem witness_BodyStoreStep :
    let s := bodyAt .b2 entry1 8 4 []
    let t := bodyAt .b3 { entry1 with pcap := 7#16 } 8 6 []
    s.mem.wf = true ∧ s.rx.slot = some 0 ∧ s.rx.label = .b2 ∧
      admitted s.cfg (s.slot 0).entry.dbase.toNat (s.slot 0).entry.dcap.toNat = true ∧
      t.rx.label = .b3 ∧ admitted t.cfg (t.slot 0).entry.pbase.toNat (payloadBytes (t.slot 0).entry t.rx.rem) = true := by
  decide

/-- With no slot; with a slot, a body that fits and one that overflows (V-RRB-3, V-RRB-2). -/
theorem witness_ResponseBodyConsumed :
    (rxAt .b1 .copyingBody []).rx.slot = none ∧ (rxAt .b1 .copyingBody []).cfg.wf = true ∧
      (bodyAt .b1 entry1 8 0 []).rx.label = .b1 ∧ (bodyAt .b1 entry1 8 0 []).rx.slot = some 0 ∧
      (bodyAt .b1 entry1 8 0 []).mem.wf = true ∧ admitted Params.tc 0x20000100 4 = true ∧
      payloadBytes entry1 (8 - 4) = 4 ∧ overflowBytes entry1 (8 - 4) = 0 ∧
      overflowBytes { entry1 with pcap := 4#16 } (16 - 4) = 8 ∧ admitted Params.tc 0x20000200 4 = true := by decide

/-- An empty table, one with slot 0 taken, and a full one. -/
theorem witness_RegisterTakesLeastFreeSlot :
    let one := State.reset.setSlot 0 (held entry1 0)
    (State.reset.slot 0).valid = false ∧ State.reset.hasPort 1 = true ∧ (one.slot 1).valid = false ∧
      (∀ j : SlotIx, j < 1 → (one.slot j).valid = true) ∧
      ∀ i : SlotIx, ((one.setSlot 1 (held entry1 1)).slot i).valid = true := by decide

theorem witness_ResolveDrawsAMatch :
    ((State.reset.setSlot 1 (held entry1 0)).slot 1).valid = true ∧
      ((State.reset.setSlot 1 (held entry1 0)).slot 1).entry.expectedOpcode = 0x0001#16 := by decide

theorem witness_RemoveFreesSlot : ((State.reset.setSlot 1 (held entry1 0)).slot 1).valid = true := by decide

/-- The REGISTER step that fills the table: both slots are then taken, by two ports. -/
theorem witness_OneSlotPerPort :
    let s := (waiting (moving [.port 1])).setPort 1 (running request .registering .w1)
    s.Inv ∧ ∃ t, step s = .next t ∧ (t.slot 0).valid = true ∧ (t.slot 1).valid = true :=
  ⟨State.inv_of_check (by decide), _, rfl, by decide, by decide⟩

theorem witness_SubmitAcceptsOrStores :
    State.reset.hasPort 1 = true ∧ (State.reset.port 1).busy = false ∧
      decodeCtrlWord 0x00010011#32 = .sendCommand true 1#16 ∧ decodeCtrlWord 0x00010001#32 = .sendCommand false 1#16 ∧
      decodeCtrlWord 2#32 = .powerOn ∧ decodeCtrlWord 3#32 = .powerOff ∧ decodeCtrlWord 0x21#32 = .illegal 0x21#32 ∧
      ((waiting State.reset).port 0).busy = true := by decide

theorem witness_IllegalCompletesAtOnce :
    let s := moving [wr32 0x40000040 0x21]
    isIllegal 0x21#32 = true ∧ s.hasPort 1 = true ∧ s.nextMove = .host (.write 0x40000040#32 .word 0x21#32) ∧
      (0x40000040#32).toNat = s.cfg.base.toNat + 0x40 * (1 : Port).val ∧ (s.port 1).busy = false ∧
      ((s.setPort 1 (running request .waiting .w1)).port 1).busy = true := by decide

theorem witness_CompleteEndsOperation : State.reset.hasPort 1 = true := by decide

theorem witness_SendWaits :
    let s := sending request .waiting .w1
    let t := (moving [.port 0]).setPort 0 { running request .waiting .w1 with respDone := true }
    let u := ((sending request .registering .w1).setSlot 0 (held entry1 1)).setSlot 1 (held entry1 2)
    s.nextMove = .port 0 ∧ s.hasPort 0 = true ∧ (s.port 0).phase = .waiting ∧ (s.port 0).respDone = false ∧
      t.nextMove = .port 0 ∧ (t.port 0).respDone = true ∧ (u.port 0).phase = .registering ∧
      ∀ i : SlotIx, (u.slot i).valid = true := by decide

theorem witness_SendWithoutResponseRuns :
    let s := sending { threeSegments with exp := false } .writing .w1
    s.nextMove = .port 0 ∧ s.hasPort 0 = true ∧ (s.port 0).phase = .writing ∧ (s.port 0).wlabel = .w1 ∧
      (s.port 0).req.exp = false ∧ (s.port 0).req.bodyLength ≤ 0xFFFF ∧ (s.port 0).req.admittedSegments s.cfg := by decide

theorem witness_SendWithResponseRuns :
    let s := (sending threeSegments .registering .w1).setSlot 0 (held entry1 1)
    s.nextMove = .port 0 ∧ s.hasPort 0 = true ∧ (s.port 0).phase = .registering ∧ (s.port 0).req.exp = true ∧
      (s.port 0).req.bodyLength ≤ 0xFFFF ∧ (s.port 0).req.admittedSegments s.cfg ∧ (s.slot 1).valid = false ∧
      ∀ j : SlotIx, j < 1 → (s.slot j).valid = true := by decide

/-- A write step, and the COMPLETE step of a port whose resp_done is 1. -/
theorem witness_SendWithResponseRuns_later :
    let s := sending threeSegments .writing .w1
    let u := (moving [.port 0]).setPort 0 { running request .waiting .w1 with respDone := true }
    (s.nextMove = .port 0 ∧ (s.port 0).phase ≠ .registering ∧ ∃ t, exec (.sendCommand true 3#16) s = .next t) ∧
      u.nextMove = .port 0 ∧ (u.port 0).phase ≠ .registering ∧ ∃ t, exec (.sendCommand true 3#16) u = .next t :=
  ⟨⟨by decide, by decide, _, rfl⟩, by decide, by decide, _, rfl⟩

/-- H0 enabled, and off for each of its three reasons; H5. -/
theorem witness_IrqEntryAndReturn :
    let s := interrupted []
    s.rx.label = .h0 ∧ s.irqPending = true ∧ s.irqMask = false ∧ s.rx.phase = .idle ∧ State.reset.irqPending = false ∧
      State.reset.irqMask = true ∧ (rxAt .h0 .copyingBody []).rx.phase ≠ .idle ∧
      (rxAt .h5 .copyingBody []).rx.label = .h5 := by decide

theorem witness_HandlerCompletesOwner :
    (bodyAt .h4 entry1 8 0 []).rx.label = .h4 ∧ (bodyAt .h4 entry1 8 0 []).rx.slot = some 0 := by decide

theorem witness_SyncTimeoutRun :
    let s := interrupted (List.replicate 44 0)
    s.rx.label = .h0 ∧ s.rx.phase = .idle ∧ s.irqPending = true ∧ s.irqMask = false ∧
      ∀ j, j < 40 → s.acceptsAt j = false := by decide +kernel

theorem witness_UnsolicitedFrameRun :
    let s := interrupted (frame 3 1)
    s.cfg.wf = true ∧ s.rx.label = .h0 ∧ s.rx.phase = .idle ∧ s.irqPending = true ∧ s.irqMask = false ∧ s.syncAt 3 1 ∧
      ∀ i, (s.slot i).valid = true → (s.slot i).entry.expectedOpcode ≠ (s.windowAt (3 + 4 + 4 * 1)).headerOpcode := by
  decide +kernel

/-- Two slots hold the opcode and the second is drawn; its body has descriptor bytes, payload bytes and an overflow. -/
theorem witness_MatchedFrameRun_drawn :
    let e := { entry1 with dcap := 1#16, pcap := 2#16 }
    let s := { (waiting (interrupted (frame 3 1))).setSlot 1 (held e 1) with draws := [1] }
    let head := s.windowAt (3 + 4 + 4 * 1)
    let rem0 := head.headerLength.toNat - 1
    s.syncAt 3 1 ∧ (s.slot 1).valid = true ∧ e.expectedOpcode = head.headerOpcode ∧
      s.resolveSlot head.headerOpcode = some 1 ∧ admitted s.cfg e.dbase.toNat 1 = true ∧
      payloadBytes e rem0 = 2 ∧ overflowBytes e rem0 = 1 ∧ admitted s.cfg e.pbase.toNat 2 = true := by decide +kernel

/-- A body that the descriptor buffer takes whole (V-RRB-8). -/
theorem witness_MatchedFrameRun :
    let s := waiting (interrupted (frame 0 0))
    let head := s.windowAt 4
    s.mem.wf = true ∧ s.syncAt 0 0 ∧ (s.slot 0).valid = true ∧ entry1.expectedOpcode = head.headerOpcode ∧
      (∀ j, j ≠ 0 → (s.slot j).valid = true → (s.slot j).entry.expectedOpcode ≠ head.headerOpcode) ∧
      admitted s.cfg entry1.dbase.toNat entry1.dcap.toNat = true ∧
      admitted s.cfg entry1.pbase.toNat (payloadBytes entry1 (head.headerLength.toNat - 4)) = true := by decide +kernel

theorem witness_PowerOnRun :
    let s := { (powerAt .idle .off 2#4).setSlot 0 (held entry1 1) with draws := [0] }
    s.pwr.step = .idle ∧ s.drawnPort = some 0 ∧ (s.port 0).req.op = 2#4 ∧ (s.slot 1).valid = false ∧
      ∀ j : SlotIx, j < 1 → (s.slot j).valid = true := by decide

theorem witness_PowerOffRun :
    let s := powerAt .idle .on 3#4
    let t := { s with pwr := { s.pwr with oobAck := true, wakeConfig := 0x01#16 } }
    t.pwr.step = .idle ∧ t.drawnPort = some 0 ∧ (t.port 0).req.op = 3#4 ∧ t.pwr.oobAck = true ∧
      t.pwr.wakeConfig = t.cfg.quiescedValue := by decide

theorem witness_SequencerWaits :
    let p6 := powerAt .pon6 .poweringOn 2#4
    let p5 := ((powerAt .pon5 .poweringOn 2#4).setSlot 0 (held entry1 1)).setSlot 1 (held entry1 2)
    let f2 := powerAt .pof2 .poweringOff 3#4
    let f3 := powerAt .pof3 .poweringOff 3#4
    p6.pwr.step = .pon6 ∧ (p6.port p6.pwr.port).respDone = false ∧
      ((p6.setPort 0 { p6.port 0 with respDone := true }).port p6.pwr.port).respDone = true ∧ p5.pwr.step = .pon5 ∧
      (∀ i : SlotIx, (p5.slot i).valid = true) ∧ f2.pwr.step = .pof2 ∧ f2.pwr.oobAck = false ∧ f3.pwr.step = .pof3 ∧
      f3.pwr.wakeConfig ≠ f3.cfg.quiescedValue ∧
      ({ f3.pwr with wakeConfig := 0x01#16 }).wakeConfig = f3.cfg.quiescedValue := by decide

/-- One waiting port, two, and none. -/
theorem witness_AcceptanceDrawsAWaitingPort :
    (powerAt .idle .off 2#4).drawnPort = some 0 ∧
      ({ (powerAt .idle .off 2#4).setPort 1 (running { Request.zero with op := 3#4 } .power .w1) with
        draws := [1] }).drawnPort = some 1 ∧ State.reset.drawnPort = none := by decide

/-! ### Witnesses for the statements over every step -/

/-- PON1. -/
theorem witness_PseqStateTransitions :
    let s := powerAt .idle .off 2#4
    s.Inv ∧ ∃ t, step s = .next t ∧ t.pwr.state ≠ s.pwr.state :=
  ⟨State.inv_of_check (by decide), _, rfl, by decide⟩

/-- PON6. -/
theorem witness_PseqStateTransitions_pon6 :
    let s := (moving [.sequencer]).setPort 0
      { running { Request.zero with op := 2#4 } .power .w1 with respDone := true }
    let u := { s with pwr := { s.pwr with step := .pon6, state := .poweringOn, stop := false } }
    u.Inv ∧ ∃ t, step u = .next t ∧ t.pwr.state ≠ u.pwr.state :=
  ⟨State.inv_of_check (by decide), _, rfl, by decide⟩

/-- POF1 and POF8. -/
theorem witness_PseqStateTransitions_off :
    let s := powerAt .idle .on 3#4
    let u := powerAt .pof8 .poweringOff 3#4
    (s.Inv ∧ ∃ t, step s = .next t ∧ t.pwr.state ≠ s.pwr.state) ∧
      u.Inv ∧ ∃ t, step u = .next t ∧ t.pwr.state ≠ u.pwr.state :=
  ⟨⟨State.inv_of_check (by decide), _, rfl, by decide⟩, State.inv_of_check (by decide), _, rfl, by decide⟩

/-- POF6 in a run, and POWER_ON's steps. -/
theorem witness_RegulatorNeverRestored :
    let s := powerAt .pof6 .poweringOff 3#4
    (∃ t, step s = .next t ∧ t.pwr.regMode ≠ s.pwr.regMode) ∧
      ∃ t, exec .powerOn (powerAt .pon2 .poweringOn 2#4) = .next t :=
  ⟨⟨_, rfl, by decide⟩, _, rfl⟩

/-- The step that reads word A. -/
theorem witness_TxSeqOnlyByLocate :
    let s := { rxAt .l9 .readingHeader [0xA0, 0xA1, 0xA2, 0xA3] with moves := [.rx] }
    s.Inv ∧ ∃ t, step s = .next t ∧ t.rx.label = .l11 ∧ s.rx.label ≠ .l11 :=
  ⟨State.inv_of_check (by decide), _, rfl, by decide, by decide⟩

/-- H0. -/
theorem witness_IrqMaskWriters :
    let s := interrupted []
    s.Inv ∧ ∃ t, step s = .next t ∧ t.irqMask ≠ s.irqMask :=
  ⟨State.inv_of_check (by decide), _, rfl, by decide⟩

/-- H5, PON4 and POF5. -/
theorem witness_IrqMaskWriters_others :
    let h := { rxAt .h5 .copyingBody [] with moves := [.rx] }
    let p := powerAt .pon4 .poweringOn 2#4
    let f := { powerAt .pof5 .poweringOff 3#4 with irqMask := false }
    (h.Inv ∧ ∃ t, step h = .next t ∧ t.irqMask ≠ h.irqMask) ∧ (p.Inv ∧ ∃ t, step p = .next t ∧ t.irqMask ≠ p.irqMask) ∧
      f.Inv ∧ ∃ t, step f = .next t ∧ t.irqMask ≠ f.irqMask :=
  ⟨⟨State.inv_of_check (by decide), _, rfl, by decide⟩, ⟨State.inv_of_check (by decide), _, rfl, by decide⟩,
    State.inv_of_check (by decide), _, rfl, by decide⟩

/-- The last read of a search that fails. -/
theorem witness_CountersOnlyByRx :
    let s := { rxAt .l4 .readingHeader [0, 0, 0, 0] with moves := [.rx] }
    let u := { s with rx := { s.rx with a := 36 } }
    u.Inv ∧ ∃ t, step u = .next t ∧ t.cntSyncTimeout = 1#32 :=
  ⟨State.inv_of_check (by decide), _, rfl, by decide⟩

/-- RESOLVE with an empty table, and the descriptor step of a body that overflows. -/
theorem witness_CountersOnlyByRx_others :
    let n := { rxAt .h2 .readingHeader [] with moves := [.rx], draws := [0] }
    let o := waiting (bodyAt .b2 entry1 8 0xFFF0 [1, 2, 3, 4])
    let u := { o with slots := (o.setSlot 0 (held { entry1 with pcap := 0#16 } 0)).slots }
    (n.Inv ∧ ∃ t, step n = .next t ∧ t.cntNoMatch = 1#32) ∧ u.Inv ∧ ∃ t, step u = .next t ∧ t.cntOverflow = 1#32 :=
  ⟨⟨State.inv_of_check (by decide), _, rfl, by decide⟩, State.inv_of_check (by decide), _, rfl, by decide⟩

/-- H4. -/
theorem witness_NoEviction :
    let s := waiting (bodyAt .h4 entry1 8 0 [])
    s.Inv ∧ ∃ t, step s = .next t ∧ (s.slot 0).valid = true ∧ t.slot 0 ≠ s.slot 0 :=
  ⟨State.inv_of_check (by decide), _, rfl, by decide, by decide⟩

/-- A CTRL write to an idle port. -/
theorem witness_RequestsChangeOnlyBySubmission :
    let s := moving [wr32 0x40000040 0x00010011]
    s.Inv ∧ ∃ t, step s = .next t ∧ (t.port 1).staging ≠ (s.port 1).staging ∧ (t.port 1).req ≠ (s.port 1).req :=
  ⟨State.inv_of_check (by decide), _, rfl, by decide, by decide⟩

/-- A read of one byte, the fewest a transport call takes. -/
theorem witness_StreamConsumedInOrder :
    let s := { rxAt .l8 .readingHeader [0xA3, 0x01] with moves := [.rx] }
    let u := { s with rx := { s.rx with m := 1 } }
    u.Inv ∧ ∃ t, step u = .next t ∧ t.consumed = 1 :=
  ⟨State.inv_of_check (by decide), _, rfl, by decide⟩

/-- A host store, a descriptor step, and a payload step that writes past the capacity. -/
theorem witness_MemoryWriters :
    let h := moving [.host (.write 0xFFFFFFFF#32 .byte 7#32)]
    let d := waiting (bodyAt .b2 entry1 8 4 [1, 2, 3, 4])
    let p := waiting (bodyAt .b3 entry1 8 4 [1, 2, 3, 4])
    (h.Inv ∧ ∃ t, step h = .next t ∧ t.mem.get 0xFFFFFFFF ≠ h.mem.get 0xFFFFFFFF) ∧
      (d.Inv ∧ ∃ t, step d = .next t ∧ t.mem.get 0x20000103 ≠ d.mem.get 0x20000103) ∧
      p.Inv ∧ ∃ t, step p = .next t ∧ t.mem.get 0x20000200 ≠ p.mem.get 0x20000200 :=
  ⟨⟨State.inv_of_check (by decide), _, rfl, by decide⟩, ⟨State.inv_of_check (by decide), _, rfl, by decide⟩,
    State.inv_of_check (by decide), _, rfl, by decide⟩

theorem witness_OnlyBodyStepsStore :
    let s := bodyAt .h4 entry1 8 0 []
    (∃ t, exec .onNwpIrq s = .next t) ∧ s.rx.label ≠ .b2 ∧ s.rx.label ≠ .b3 :=
  ⟨⟨_, rfl⟩, by decide, by decide⟩

/-- The REGISTER step of a port. -/
theorem witness_PortsAreIndependent :
    let s := sending request .registering .w1
    s.Inv ∧ s.nextMove = .port 0 ∧ ∃ t, step s = .next t ∧ t.slot 0 ≠ s.slot 0 :=
  ⟨State.inv_of_check (by decide), by decide, _, rfl, by decide⟩

theorem witness_CountersDoNotMatter :
    (∀ h, (interrupted []).nextMove ≠ .host h) ∧ ∃ t, step (interrupted []) = .next t :=
  ⟨fun h => by show Move.rx ≠ _; simp, _, rfl⟩

theorem witness_ResponseContentsIgnored :
    let d := bodyAt .b2 entry1 8 4 [1, 2, 3, 4]
    let p := bodyAt .b3 entry1 8 4 [1, 2, 3, 4]
    let r := bodyAt .d1 entry1 8 4 [1, 2, 3, 4]
    (d.rx.label = .b2 ∧ d.nextMove = .rx ∧ d.mem.wf = true ∧ d.rx.slot = some 0 ∧ ∃ t, step d = .next t) ∧
      (p.rx.label = .b3 ∧ ∃ t, step p = .next t) ∧ r.rx.label = .d1 ∧ ∃ t, step r = .next t :=
  ⟨⟨rfl, rfl, by decide, rfl, _, rfl⟩, ⟨rfl, _, rfl⟩, rfl, _, rfl⟩

/-- Two staging registers of one port, and the clearing write with a register it does not act on. -/
theorem witness_RegisterWrites :
    Reg.seg0Len 0 ≠ .seg0Base 0 ∧ (∀ q, Reg.seg0Base 0 = .statusClr q → Reg.seg0Len 0 ≠ .status q) ∧
      (∀ q, Reg.statusClr 0 = .statusClr q → Reg.status 1 ≠ .status q) ∧ Reg.expOpcode 0 ≠ .ctrl 0 := by decide

/-- The last register of the range read, and the byte below the range. -/
theorem witness_RegisterRangeAccess :
    let s := moving [.host (.read 0x400003FC#32 .word)]
    s.cfg.wf = true ∧ s.cfg.base.toNat < (0x400003FC#32).toNat + Width.word.bytes ∧
      (0x400003FC#32).toNat < s.cfg.base.toNat + 0x400 ∧ s.nextMove = .host (.read 0x400003FC#32 .word) ∧
      s.cfg.base.toNat < (0x3FFFFFFF#32).toNat + Width.half.bytes ∧
      regAt s.cfg 0x40 = .ctrl 1 ∧ regAt s.cfg 0x80 = .reserved := by decide

theorem witness_StepRunsFetchedOperation :
    (interrupted []).fetch = some .onNwpIrq ∧ (∃ t, exec .onNwpIrq (interrupted []) = .next t) ∧
      (sending tooLong .writing .w1).fetch = some (.sendCommand false 3#16) ∧
      exec (.sendCommand false 3#16) (sending tooLong .writing .w1) = .refused .lengthOverflow :=
  ⟨rfl, ⟨_, rfl⟩, by decide, rfl⟩

theorem witness_PlacedWordIsFetched : 1 ≤ State.reset.cfg.numPorts := by decide

/-- The parameters, memory and WAKE_CONFIG of State.reset, and other ones at their bounds. -/
theorem witness_ResetMeetsInvariant :
    let c := { Params.tc with numPorts := 8, scratchBytes := 4, wcW := 16 }
    Params.tc.wf = true ∧ Memory.wf [] = true ∧ (0#16).toNat < 2 ^ Params.tc.wcW ∧ c.wf = true ∧
      Memory.wf [(0xFFFFFFFF, 7#8)] = true ∧ (0xFFFF#16).toNat < 2 ^ c.wcW := by decide

/-- A value of WC_W bits and a wider one. -/
theorem witness_EnvironmentMoves :
    (moving [.env .irq]).nextMove = .env .irq ∧ (moving [.env .setOobAck]).nextMove = .env .setOobAck ∧
      (moving [.env .setHostAck]).nextMove = .env .setHostAck ∧
      (moving [.env (.setWakeConfig 0x00FF#16)]).nextMove = .env (.setWakeConfig 0x00FF#16) ∧
      (0x00FF#16).toNat < 2 ^ State.reset.cfg.wcW ∧
      (moving [.env (.setWakeConfig 0x01FF#16)]).nextMove = .env (.setWakeConfig 0x01FF#16) ∧
      ¬(0x01FF#16).toNat < 2 ^ State.reset.cfg.wcW := by decide

theorem witness_StepKeepsInvariant :
    let s := waiting (interrupted (frame 0 0))
    s.Inv ∧ ∃ t, step s = .next t :=
  ⟨State.inv_of_check (by decide), _, rfl⟩

end Sys2Proof.Tests
end

/-! The words of POWER_ON and POWER_OFF (30_encoding.md rule R113). -/

namespace Sys2Proof

/-- OP and the 28 bits above it are the whole word, so OP alone fixes a word with those bits clear. -/
theorem eq_append_of_ctrlOp_of_high_zero {w : Word} {op : BitVec 4} (hop : ctrlOp w = op)
    (hhigh : w.extractLsb' 4 28 = 0#28) : w = 0#28 ++ op := by
  rw [← hop, ← hhigh, ctrlOp, BitVec.extractLsb'_append_extractLsb'_eq_extractLsb' (show 4 = 0 + 4 from rfl),
    BitVec.extractLsb'_eq_self]

theorem decodeCtrlWord_eq_powerOn_iff (w : Word) : decodeCtrlWord w = .powerOn ↔ w = 0x00000002#32 := by
  constructor
  · intro h
    obtain ⟨-, hd⟩ | ⟨-, -, -, hd⟩ | ⟨-, hop, hhigh, -⟩ | ⟨-, -, -, hd⟩ := decodeCtrlWord_cases w
    case inr.inr.inl => exact eq_append_of_ctrlOp_of_high_zero hop hhigh
    all_goals simp [hd] at h
  · rintro rfl
    decide

theorem decodeCtrlWord_eq_powerOff_iff (w : Word) : decodeCtrlWord w = .powerOff ↔ w = 0x00000003#32 := by
  constructor
  · intro h
    obtain ⟨-, hd⟩ | ⟨-, -, -, hd⟩ | ⟨-, -, -, hd⟩ | ⟨-, hop, hhigh, -⟩ := decodeCtrlWord_cases w
    case inr.inr.inr => exact eq_append_of_ctrlOp_of_high_zero hop hhigh
    all_goals simp [hd] at h
  · rintro rfl
    decide

/-- Settles O3: the mask of rule R113 is all ones, so matching under it is equality of words. -/
theorem powerWords : Obligations.PowerWords := by
  intro w
  have hmask : w &&& 0xFFFFFFFF#32 = w := BitVec.and_allOnes
  rw [hmask]
  exact ⟨decodeCtrlWord_eq_powerOn_iff w, decodeCtrlWord_eq_powerOff_iff w⟩

end Sys2Proof

/-! The two words SyncMatch accepts (41_frame_sync.md rules R201 to R203), by the fields of an N2H sync word
(30_encoding.md rule R118): a tag of 29 bits, SEQ-SET at bit 2 and SEQ in bits [1:0]. -/

namespace Sys2Proof

open Machine

/-! ## A word as tag, SEQ-SET and SEQ -/

theorem bitVec_append_inj {m n : Nat} {x x' : BitVec m} {y y' : BitVec n} :
    x ++ y = x' ++ y' ↔ x = x' ∧ y = y' := by
  constructor
  · intro h
    have hy : y = y' := by simpa only [BitVec.setWidth_append_eq_right] using congrArg (BitVec.setWidth n) h
    subst hy
    exact ⟨(BitVec.append_left_inj y).mp h, rfl⟩
  · rintro ⟨rfl, rfl⟩
    rfl

theorem tag_append_seqSet_append_seq (w : Word) :
    w.extractLsb' 3 29 ++ BitVec.ofBool (w.getLsbD 2) ++ w.extractLsb' 0 2 = w := by
  have hbit : BitVec.ofBool (w.getLsbD 2) = w.extractLsb' 2 1 := by ext i hi; grind
  rw [hbit, BitVec.extractLsb'_append_extractLsb'_eq_extractLsb' (show 3 = 2 + 1 from rfl),
    BitVec.extractLsb'_append_extractLsb'_eq_extractLsb' (show 2 = 0 + 2 from rfl), BitVec.extractLsb'_eq_self]

theorem fields_inj {t t' : BitVec 29} {b b' : BitVec 1} {q q' : BitVec 2} :
    (t ++ b ++ q : Word) = (t' ++ b' ++ q' : Word) ↔ t = t' ∧ b = b' ∧ q = q' :=
  (bitVec_append_inj (m := 30)).trans <| (and_congr_left' (bitVec_append_inj (m := 29))).trans and_assoc

/-- SEQ_MASK clears SEQ-SET and keeps the tag and SEQ. -/
theorem fields_and_seqMask (t : BitVec 29) (b : BitVec 1) (q : BitVec 2) :
    (t ++ b ++ q) &&& seqMask = t ++ 0#1 ++ q := by
  have hmask : seqMask = BitVec.allOnes 29 ++ 0#1 ++ BitVec.allOnes 2 := by decide
  rw [hmask, BitVec.and_append, BitVec.and_append, BitVec.and_allOnes, BitVec.and_allOnes, BitVec.and_zero]

theorem fields_and_tagMask (t : BitVec 29) (b : BitVec 1) (q : BitVec 2) :
    (t ++ b ++ q) &&& 0xFFFFFFF8#32 = t ++ 0#1 ++ 0#2 := by
  have hmask : 0xFFFFFFF8#32 = BitVec.allOnes 29 ++ 0#1 ++ 0#2 := by decide
  rw [hmask, BitVec.and_append, BitVec.and_append, BitVec.and_allOnes, BitVec.and_zero, BitVec.and_zero]

theorem tag_or_seqSet (t : BitVec 29) : (t ++ 0#1 ++ 0#2) ||| 0x4#32 = t ++ 1#1 ++ 0#2 := by
  have hbit : 0x4#32 = 0#29 ++ 1#1 ++ 0#2 := by decide
  rw [hbit, BitVec.or_append, BitVec.or_append, BitVec.or_zero, BitVec.zero_or, BitVec.zero_or]

theorem fields_or_seq (t : BitVec 29) (b : BitVec 1) (q : BitVec 2) :
    (t ++ b ++ 0#2) ||| q.zeroExtend 32 = t ++ b ++ q := by
  have hq : q.zeroExtend 32 = 0#29 ++ 0#1 ++ q := by
    rw [BitVec.zeroExtend, BitVec.setWidth_eq_append (by decide)]
    rfl
  rw [hq, BitVec.or_append, BitVec.or_append, BitVec.or_zero, BitVec.or_zero, BitVec.zero_or]

/-! ## The two words of rule R203 as N2H sync words -/

theorem Params.n2hSync_low_of_wf {c : Params} (hc : c.wf = true) : c.n2hSync.extractLsb' 0 3 = 0#3 := by
  simp only [Params.wf, Bool.and_eq_true, beq_iff_eq] at hc
  tauto

theorem n2hSyncValue_inj {c : Params} {b b' : Bool} {q q' : BitVec 2} :
    n2hSyncValue c b q = n2hSyncValue c b' q' ↔ b = b' ∧ q = q' := by
  rw [n2hSyncValue, n2hSyncValue, fields_inj, BitVec.ofBool_eq_iff_eq, eq_self, true_and]

theorem n2hSyncValue_bare {c : Params} (hc : c.wf = true) : n2hSyncValue c false 0#2 = c.n2hSync := by
  have hlow := Params.n2hSync_low_of_wf hc
  have hset : c.n2hSync.getLsbD 2 = false := by simpa using congrArg (BitVec.getLsbD · 2) hlow
  have hseq : c.n2hSync.extractLsb' 0 2 = 0#2 := by
    simpa using congrArg (BitVec.extractLsb' 0 2) hlow
  have hfields := tag_append_seqSet_append_seq c.n2hSync
  rwa [hset, hseq] at hfields

theorem n2hSyncValue_sequenced {c : Params} (hc : c.wf = true) (q : BitVec 2) :
    n2hSyncValue c true q = (c.n2hSync &&& 0xFFFFFFF8#32) ||| 0x4#32 ||| q.zeroExtend 32 := by
  conv => rhs; rw [← n2hSyncValue_bare hc]
  rw [n2hSyncValue, n2hSyncValue, fields_and_tagMask, tag_or_seqSet, fields_or_seq]
  rfl

/-! ## SyncMatch -/

/-- Rule R201's masked comparison, where SEQ-SET is 1: the tag and SEQ are as in the sequenced form. -/
theorem and_seqMask_eq_iff {c : Params} (hc : c.wf = true) {w : Word} (hset : w.getLsbD 2 = true) (q : BitVec 2) :
    w &&& seqMask = c.n2hSync ||| q.zeroExtend 32 ↔ w = n2hSyncValue c true q := by
  have hfields := tag_append_seqSet_append_seq w
  rw [hset] at hfields
  conv => lhs; rw [← n2hSyncValue_bare hc, ← hfields]
  conv => rhs; rw [← hfields]
  rw [n2hSyncValue, n2hSyncValue, fields_and_seqMask, BitVec.ofBool_false, fields_or_seq]
  simp only [fields_inj, BitVec.ofNat_eq_ofNat]

theorem getLsbD_two_n2hSyncValue (c : Params) (b : Bool) (q : BitVec 2) : (n2hSyncValue c b q).getLsbD 2 = b := by
  rw [n2hSyncValue, BitVec.getLsbD_append, BitVec.getLsbD_append]
  simp

/-- Rule R202, with its two forms as the encoder writes them. -/
theorem syncMatch_iff {c : Params} (hc : c.wf = true) (w : Word) (seq : BitVec 8) :
    syncMatch c w seq = true ↔ w = n2hSyncValue c false 0#2 ∨ w = n2hSyncValue c true (seq.extractLsb' 0 2) := by
  cases hset : w.getLsbD 2 with
  | true =>
    have hbare : w ≠ n2hSyncValue c false 0#2 := by
      rintro rfl
      rw [getLsbD_two_n2hSyncValue] at hset
      contradiction
    simp only [syncMatch, hset, if_true, beq_iff_eq, and_seqMask_eq_iff hc hset, hbare, false_or]
  | false =>
    have hsequenced : w ≠ n2hSyncValue c true (seq.extractLsb' 0 2) := by
      rintro rfl
      rw [getLsbD_two_n2hSyncValue] at hset
      contradiction
    simp only [syncMatch, hset, Bool.false_eq_true, if_false, beq_iff_eq, n2hSyncValue_bare hc, hsequenced, or_false]

/-- Settles O6: SEQ-SET tells the two forms apart, and each branch of SyncMatch accepts the one of its own SEQ-SET. -/
theorem syncMatchAcceptsTwoWords : Obligations.SyncMatchAcceptsTwoWords := by
  intro c seq hc
  dsimp only
  rw [← n2hSyncValue_sequenced hc, ← n2hSyncValue_bare hc]
  exact ⟨by simp [n2hSyncValue_inj], fun w => syncMatch_iff hc w seq⟩

end Sys2Proof

/-! Where the segments stand in an H2N command frame (30_encoding.md rule R121, 42_codec.md rule R253). -/

namespace Sys2Proof.Machine

/-! ## One segment's part of the frame -/

@[simp] theorem Segment.wireBytes_of_sent {g : Segment} (hg : g.sent = true) : g.wireBytes = align4 g.len.toNat :=
  if_pos hg

theorem Segment.frameBytes_of_sent (m : Memory) {g : Segment} (hg : g.sent = true) :
    g.frameBytes m = m.read g.base.toNat g.len.toNat ++ g.padding :=
  if_pos hg

@[simp] theorem Segment.length_padding (g : Segment) : g.padding.length = align4 g.len.toNat - g.len.toNat :=
  List.length_replicate

@[simp] theorem Segment.length_frameBytes (m : Memory) (g : Segment) : (g.frameBytes m).length = g.wireBytes := by
  cases hg : g.sent with
  | true =>
    have hle := le_align4 g.len.toNat
    rw [frameBytes_of_sent m hg, wireBytes_of_sent hg, List.length_append, Memory.length_read, length_padding]
    omega
  | false => simp [Segment.frameBytes, Segment.wireBytes, hg]

/-- Padding comes after a segment's bytes, so these are found at the offset where its part of the frame begins. -/
theorem Segment.take_drop_frameBytes (m : Memory) {g : Segment} (hg : g.sent = true) {before : List Byte} {o : Nat}
    (ho : before.length = o) (after : List Byte) :
    ((before ++ (g.frameBytes m ++ after)).drop o).take g.len.toNat = m.read g.base.toNat g.len.toNat := by
  rw [List.drop_left' ho, frameBytes_of_sent m hg, List.append_assoc, List.take_left' (Memory.length_read ..)]

/-! ## The whole frame -/

/-- What WRITE_COMMAND transmits before the segments: the sync word and the frame header. -/
def Request.frameHead (r : Request) : List Byte := bytes32 h2nSyncValue ++ r.headerBytes

@[simp] theorem Request.length_frameHead (r : Request) : r.frameHead.length = 8 := rfl

/-- The frame as its parts in order, nested to the right so that each segment has a list of bytes after it. -/
theorem Request.frame_eq (r : Request) (m : Memory) :
    r.frame m = r.frameHead ++ (r.seg0.frameBytes m ++ (r.seg1.frameBytes m ++ (r.seg2.frameBytes m ++ []))) := by
  have hsync : bytes32 h2nSyncValue = [0x21#8, 0x43#8, 0x34#8, 0x12#8] := by decide
  simp only [frame, frameHead, headerBytes, hsync, List.append_assoc, List.append_nil]

theorem Request.length_frame (r : Request) (m : Memory) : (r.frame m).length = 8 + r.bodyLength := by
  simp [frame_eq, bodyLength, Nat.add_assoc]

end Sys2Proof.Machine

namespace Sys2Proof

open Machine

/-- Settles O15: what stands before a segment is the 8 bytes of the head and the padded segments sent before it. -/
theorem frameAlignment : Obligations.FrameAlignment := by
  intro r m h0 h1 h2 d h p frame from_
  have hbody : r.bodyLength = align4 d + align4 h + align4 p := by
    rw [Request.bodyLength, Segment.wireBytes_of_sent h0, Segment.wireBytes_of_sent h1, Segment.wireBytes_of_sent h2]
  have hd : align4 d % 4 = 0 := align4_mod d
  have hh : align4 h % 4 = 0 := align4_mod h
  refine ⟨hbody, r.bodyLength_mod, r.length_frame m, rfl, by omega, by omega, ?seg0, ?seg1, ?seg2⟩
  all_goals simp only [from_, frame, Request.frame_eq]
  case seg0 => exact Segment.take_drop_frameBytes m h0 r.length_frameHead _
  case seg1 =>
    rw [← List.append_assoc r.frameHead]
    exact Segment.take_drop_frameBytes m h1 (by simp [h0, d]) _
  case seg2 =>
    rw [← List.append_assoc r.frameHead, ← List.append_assoc (_ ++ _)]
    exact Segment.take_drop_frameBytes m h2 (by simp [h0, h1, d, h, Nat.add_assoc]) _

end Sys2Proof

/-! No slot of the Pending-Request Table is evicted (43_pending_table.md rule R286): which operations leave the table as
it is, which only fill a free slot, and what H4 does (45_receive_handler.md rule R360). -/

namespace Sys2Proof.Machine

/-- Every slot that is valid in `s` is the same slot in `u`. -/
def State.KeepsValidSlots (s u : State) : Prop := ∀ i, (s.slot i).valid = true → u.slot i = s.slot i

theorem State.KeepsValidSlots.of_slots_eq {s u : State} (h : u.slots = s.slots) : s.KeepsValidSlots u :=
  fun i _ => State.slot_congr h i

theorem State.KeepsValidSlots.of_eq_right {s t u : State} (h : s.KeepsValidSlots t) (hu : u.slots = t.slots) :
    s.KeepsValidSlots u :=
  fun i hv => (State.slot_congr hu i).trans (h i hv)

/-! ## The RX engine outside H4 -/

@[simp] theorem State.afterSearch_slots (s : State) (r : SearchEnd × Window × Nat) :
    (s.afterSearch r).slots = s.slots := by
  obtain ⟨e, w, a⟩ := r
  cases e with
  | found => simp only [State.afterSearch]; split <;> rfl
  | needsRead => rfl
  | timeout => rfl

@[simp] theorem State.afterWord_slots (s : State) (w : Window) : (s.afterWord w).slots = s.slots := by
  unfold State.afterWord
  split <;> rfl

theorem State.locateStep_slots {s t : State} (h : s.locateStep = some t) : t.slots = s.slots := by
  cases hl : s.rx.label <;> simp only [State.locateStep, hl, reduceCtorEq] at h <;> obtain rfl := Option.some.inj h
  case l1 => rfl
  case l2 => simp [State.locateL2]
  case l4 => simp [State.locateL4]
  case l8 => simp [State.locateL8]
  case l9 => simp [State.locateL9]
  case l10 => simp [State.locateL10]
  case l11 => simp [State.locateL11]
  case l12 => simp [State.locateL12]

@[simp] theorem State.locateStep_getD_slots (s : State) : (s.locateStep.getD s).slots = s.slots := by
  cases h : s.locateStep with
  | none => rfl
  | some t => exact State.locateStep_slots h

@[simp] theorem State.bodyDone_slots (s : State) : s.bodyDone.slots = s.slots := rfl

@[simp] theorem State.drainChunk_slots (s : State) (n : Nat) : (s.drainChunk n).slots = s.slots := by
  unfold State.drainChunk
  split <;> simp

@[simp] theorem State.thenDrain_slots (s : State) (n : Nat) : (s.thenDrain n).slots = s.slots := by
  unfold State.thenDrain
  split <;> rfl

@[simp] theorem State.bodyB4_slots (s : State) : s.bodyB4.slots = s.slots := by
  unfold State.bodyB4
  split <;> simp

@[simp] theorem State.bodyB3_slots (s : State) (e : Entry) : (s.bodyB3 e).slots = s.slots := by
  unfold State.bodyB3
  split <;> simp

@[simp] theorem State.bodyB1_slots (s : State) : s.bodyB1.slots = s.slots := by
  unfold State.bodyB1
  split
  · simp
  · dsimp only
    split <;> simp

theorem State.readToMemory_slots {s t : State} {addr n : Nat} (h : s.readToMemory addr n = some t) :
    t.slots = s.slots := by
  obtain ⟨-, rfl⟩ := State.readToMemory_eq_some h
  rfl

theorem State.bodyStep_slots {s t : State} (h : s.bodyStep = some t) : t.slots = s.slots := by
  cases hl : s.rx.label <;> cases hr : s.rx.slot <;> simp only [State.bodyStep, hl, hr, reduceCtorEq] at h
  case b1.none | b1.some => obtain rfl := Option.some.inj h; simp
  case b2.some | b3.some =>
    obtain ⟨u, hu, rfl⟩ := Option.map_eq_some_iff.mp h
    simpa using State.readToMemory_slots hu
  case d1.none | d1.some =>
    obtain rfl := Option.some.inj h
    split <;> simp

@[simp] theorem State.bodyStep_getD_slots (s : State) : (s.bodyStep.getD s).slots = s.slots := by
  cases h : s.bodyStep with
  | none => rfl
  | some t => exact State.bodyStep_slots h

@[simp] theorem State.settle_slots (s : State) : s.settle.slots = s.slots := by
  unfold State.settle
  split <;> simp

@[simp] theorem State.handlerResolve_slots (s : State) : s.handlerResolve.slots = s.slots := rfl

@[simp] theorem State.takeIrq_slots (s : State) : s.takeIrq.slots = s.slots := rfl

@[simp] theorem State.returnFromIrq_slots (s : State) : s.returnFromIrq.slots = s.slots := rfl

/-- ON_NWP_IRQ touches the table at H4 only. -/
theorem execOnNwpIrq_slots {s u : State} (h : execOnNwpIrq s = .next u) (h4 : s.rx.label ≠ .h4) :
    u.slots = s.slots := by
  cases hl : s.rx.label <;> simp only [execOnNwpIrq, hl] at h
  case h0 => split at h <;> cases h <;> simp
  case h4 => contradiction
  all_goals cases h; simp

/-! ## H4 -/

theorem execOnNwpIrq_h4 {s : State} (h4 : s.rx.label = .h4) : execOnNwpIrq s = .next s.handlerComplete := by
  simp [execOnNwpIrq, h4]

theorem State.handlerComplete_of_none {s : State} (h : s.rx.slot = none) : s.handlerComplete = s := by
  simp [State.handlerComplete, h]

theorem State.slot_handlerComplete {s : State} {i : SlotIx} (h : s.rx.slot = some i) (j : SlotIx) :
    s.handlerComplete.slot j = if i = j then Slot.free else s.slot j := by
  simp only [State.handlerComplete, h]
  exact State.slot_removeSlot _ i j

theorem State.respDone_handlerComplete {s : State} {i : SlotIx} (h : s.rx.slot = some i) :
    (s.handlerComplete.port (s.slot i).owner).respDone = true := by
  simp only [State.handlerComplete, h]
  exact congrArg PortState.respDone (State.port_setPort_self s _ _)

/-- H4 changes no slot but rx_slot's, which it frees, and sets resp_done of that slot's owner. -/
theorem State.handlerComplete_changed_slot {s : State} {j : SlotIx} (h : s.handlerComplete.slot j ≠ s.slot j) :
    s.rx.slot = some j ∧ (s.handlerComplete.slot j).valid = false ∧
      (s.handlerComplete.port (s.slot j).owner).respDone = true := by
  cases hr : s.rx.slot with
  | none => exact absurd (by rw [State.handlerComplete_of_none hr]) h
  | some i =>
    have hij : i = j := by
      by_contra hne
      exact h (by rw [State.slot_handlerComplete hr, if_neg hne])
    subst hij
    exact ⟨rfl, by rw [State.slot_handlerComplete hr, if_pos rfl]; rfl, State.respDone_handlerComplete hr⟩

/-! ## REGISTER's insert -/

/-- An insert takes a free slot, so it overwrites no valid one. -/
theorem State.insertRequest_keepsValidSlots {s t : State} {p : Port} {e : Entry} (h : s.insertRequest p e = some t) :
    s.KeepsValidSlots t := by
  obtain ⟨k, hk, rfl⟩ := State.insertRequest_spec h
  intro i hv
  have hki : k ≠ i := by
    rintro rfl
    simp [(State.freeSlot_spec hk).1] at hv
  rw [State.slot_setPort, State.slot_setSlot_ne _ _ hki]

/-! ## The ports and the host's submissions -/

@[simp] theorem State.wrote_slots (s : State) (p : Port) (r : Request) (l : WriteLabel) :
    (s.wrote p r l).slots = s.slots := rfl

@[simp] theorem State.writeSegment_slots (s : State) (p : Port) (r : Request) (l : WriteLabel) :
    (s.writeSegment p r l).slots = s.slots := by
  unfold State.writeSegment
  dsimp only
  split
  · split
    · next t ht =>
      obtain ⟨-, rfl⟩ := State.sendFromMemory_eq_some ht
      rfl
    · rfl
  · rfl

theorem State.writeStep_slots {s u : State} {p : Port} {r : Request} (h : s.writeStep p r = some (.next u)) :
    u.slots = s.slots := by
  cases hl : (s.port p).wlabel <;> simp only [State.writeStep, hl, reduceCtorEq] at h
  case w1 => split at h <;> cases h; simp
  all_goals cases h; simp

theorem State.sendRegister_keepsValidSlots (s : State) (p : Port) (r : Request) :
    s.KeepsValidSlots (s.sendRegister p r) := by
  unfold State.sendRegister
  split
  · next t ht => exact (State.insertRequest_keepsValidSlots ht).of_eq_right rfl
  · exact .of_slots_eq rfl

theorem State.sendStep_keepsValidSlots {s u : State} {p : Port} {r : Request} (h : s.sendStep p r = .next u) :
    s.KeepsValidSlots u := by
  cases hp : (s.port p).phase <;> simp only [State.sendStep, hp] at h
  case idle => cases h; exact .of_slots_eq rfl
  case registering => cases h; exact s.sendRegister_keepsValidSlots p r
  case writing =>
    cases hw : s.writeStep p r with
    | none => rw [hw] at h; cases h; exact .of_slots_eq rfl
    | some o => rw [hw] at h; cases h; exact .of_slots_eq (State.writeStep_slots hw)
  case waiting => split at h <;> cases h <;> exact .of_slots_eq rfl
  case power => cases h; exact .of_slots_eq rfl

theorem execSendCommand_keepsValidSlots {exp : Bool} {c : Half} {s u : State}
    (h : execSendCommand exp c s = .next u) : s.KeepsValidSlots u := by
  cases hm : s.nextMove <;> simp only [execSendCommand, hm] at h
  case port p =>
    split at h
    · exact State.sendStep_keepsValidSlots h
    · cases h; exact .of_slots_eq rfl
  all_goals cases h; exact .of_slots_eq rfl

@[simp] theorem State.acceptIllegal_slots (s : State) (p : Port) : (s.acceptIllegal p).slots = s.slots := by
  simp [State.acceptIllegal]

@[simp] theorem State.acceptWord_slots (s : State) (p : Port) (v : Word) : (s.acceptWord p v).slots = s.slots := by
  obtain ⟨-, hd⟩ | ⟨-, -, -, hd⟩ | ⟨-, -, -, hd⟩ | ⟨-, -, -, hd⟩ := decodeCtrlWord_cases v <;>
    simp [State.acceptWord, hd]

@[simp] theorem State.submit_slots (s : State) (p : Port) (v : Word) : (s.submit p v).slots = s.slots := by
  unfold State.submit
  dsimp only
  split <;> simp

theorem execSubmit_slots {p : Port} {v : Word} {s u : State} (h : execSubmit p v s = .next u) :
    u.slots = s.slots := by
  unfold execSubmit at h
  split at h <;> cases h <;> simp

theorem execIllegal_slots {w : Word} {s u : State} (h : execIllegal w s = .next u) : u.slots = s.slots := by
  cases hc : s.ctrlWritePort with
  | none => simp only [execIllegal, hc] at h; cases h; rfl
  | some p =>
    by_cases hi : isIllegal w = true
    · rw [illegal_eq_submit hc hi] at h; cases h; simp
    · simp only [execIllegal, hc, hi] at h; cases h; rfl

/-! ## The sequencer -/

/-- POWER_ON fills a free slot at PON5 and leaves the table as it is elsewhere. -/
theorem execPowerOn_keepsValidSlots {s u : State} (h : execPowerOn s = .next u) : s.KeepsValidSlots u := by
  cases hl : s.pwr.step <;> simp only [execPowerOn, hl] at h
  case idle =>
    split at h
    · split at h <;> cases h <;> exact .of_slots_eq rfl
    · cases h; exact .of_slots_eq rfl
  case pon5 =>
    split at h
    · next t ht => cases h; exact (State.insertRequest_keepsValidSlots ht).of_eq_right rfl
    · cases h; exact .of_slots_eq rfl
  case pon6 => split at h <;> cases h <;> exact .of_slots_eq rfl
  all_goals cases h; exact .of_slots_eq rfl

theorem execPowerOff_slots {s u : State} (h : execPowerOff s = .next u) : u.slots = s.slots := by
  cases hl : s.pwr.step <;> simp only [execPowerOff, hl] at h
  case idle =>
    split at h
    · split at h <;> cases h <;> rfl
    · cases h; rfl
  case pof2 | pof3 => split at h <;> cases h <;> rfl
  all_goals cases h; rfl

/-! ## Moves that are no operation -/

@[simp] theorem State.writeReg_slots (s : State) (r : Reg) (v : Word) : (s.writeReg r v).slots = s.slots := by
  cases r with
  | statusClr p => simp only [State.writeReg]; split <;> rfl
  | gstatus => simp only [State.writeReg]; split <;> rfl
  | _ => rfl

@[simp] theorem State.envStep_slots (s : State) (e : EnvMove) : (s.envStep e).slots = s.slots := by
  cases e <;> rfl

theorem State.hostStep_slots {s u : State} {m : HostMove} (h : s.hostStep m = .next u) : u.slots = s.slots := by
  cases m with
  | read addr w => simp only [State.hostStep] at h; split at h <;> cases h <;> rfl
  | write addr w v => simp only [State.hostStep] at h; split at h <;> cases h <;> simp

theorem State.plainMove_slots {s u : State} (h : s.plainMove = .next u) : u.slots = s.slots := by
  cases hm : s.nextMove <;> simp only [State.plainMove, hm] at h
  case host => exact State.hostStep_slots h
  all_goals cases h; simp

/-! ## Every step -/

/-- A port runs what the request word of its in-flight record selects. -/
theorem State.portOperation_eq_decode {s : State} {p : Port} {i : Instr} (h : s.portOperation p = some i) :
    i = decodeCtrlWord (s.port p).req.word := by
  unfold State.portOperation at h
  split at h
  · split at h <;> cases h <;> rfl
  · cases h

/-- The sequencer runs what a request word selects: the drawn port's at IDLE, else POWER_ON's or POWER_OFF's. -/
theorem State.sequencerOperation_eq_decode {s : State} {i : Instr} (h : s.sequencerOperation = some i) :
    ∃ w, i = decodeCtrlWord w := by
  cases hl : s.pwr.step <;> simp only [State.sequencerOperation, hl] at h
  case idle =>
    obtain ⟨q, -, rfl⟩ := Option.map_eq_some_iff.mp h
    exact ⟨_, rfl⟩
  case pon1 | pon2 | pon3 | pon4 | pon5 | pon6 => cases h; exact ⟨0x00000002#32, by decide⟩
  all_goals cases h; exact ⟨0x00000003#32, by decide⟩

/-- The operations that a move can run: the handler, where the RX engine moves; the one a request word selects; and the
submission of a word. REMOVE is none of them. -/
theorem State.fetch_cases {s : State} {i : Instr} (h : s.fetch = some i) :
    (s.nextMove = .rx ∧ i = .onNwpIrq) ∨ (∃ w, i = decodeCtrlWord w) ∨ ∃ p v, i = .submit p v := by
  cases hm : s.nextMove <;> simp only [State.fetch, hm, reduceCtorEq] at h
  case port p => exact .inr (.inl ⟨_, State.portOperation_eq_decode h⟩)
  case rx => cases h; exact .inl ⟨rfl, rfl⟩
  case sequencer => exact .inr (.inl (State.sequencerOperation_eq_decode h))
  case host m =>
    cases m with
    | read addr w => cases h
    | write addr w v =>
      obtain ⟨p, -, rfl⟩ := Option.map_eq_some_iff.mp h
      unfold ctrlWriteOperation
      split
      · next w hw => exact .inr (.inl ⟨_, hw.symm⟩)
      · exact .inr (.inr ⟨_, _, rfl⟩)

theorem exec_decodeCtrlWord_keepsValidSlots {w : Word} {s u : State} (h : exec (decodeCtrlWord w) s = .next u) :
    s.KeepsValidSlots u := by
  obtain ⟨-, hd⟩ | ⟨-, -, -, hd⟩ | ⟨-, -, -, hd⟩ | ⟨-, -, -, hd⟩ := decodeCtrlWord_cases w <;> rw [hd] at h
  · exact .of_slots_eq (execIllegal_slots h)
  · exact execSendCommand_keepsValidSlots h
  · exact execPowerOn_keepsValidSlots h
  · exact .of_slots_eq (execPowerOff_slots h)

theorem State.KeepsValidSlots.finish {s u : State} (h : s.KeepsValidSlots u) : s.KeepsValidSlots (s.finish u) :=
  h.of_eq_right rfl

/-- Every step keeps the valid slots, but the RX engine's at H4. -/
theorem step_keepsValidSlots_or_h4 {s t : State} (h : step s = .next t) :
    s.KeepsValidSlots t ∨ (s.nextMove = .rx ∧ s.rx.label = .h4 ∧ t = s.finish s.handlerComplete) := by
  obtain ⟨u, rfl, ⟨i, hf, hu⟩ | ⟨-, hu⟩⟩ := step_next h
  · obtain ⟨hm, rfl⟩ | ⟨w, rfl⟩ | ⟨p, v, rfl⟩ := State.fetch_cases hf
    · change execOnNwpIrq s = .next u at hu
      by_cases h4 : s.rx.label = .h4
      · rw [execOnNwpIrq_h4 h4] at hu
        cases hu
        exact .inr ⟨hm, h4, rfl⟩
      · exact .inl (State.KeepsValidSlots.of_slots_eq (execOnNwpIrq_slots hu h4)).finish
    · exact .inl (exec_decodeCtrlWord_keepsValidSlots hu).finish
    · exact .inl (State.KeepsValidSlots.of_slots_eq (execSubmit_slots hu)).finish
  · exact .inl (State.KeepsValidSlots.of_slots_eq (State.plainMove_slots hu)).finish

end Sys2Proof.Machine

namespace Sys2Proof

open Machine

/-- Settles O45: a step that changes a valid slot is H4, and H4 changes rx_slot's alone. -/
theorem noEviction : Obligations.NoEviction := by
  intro s t i _ hstep hvalid hchanged
  obtain hkeep | ⟨hmove, hlabel, rfl⟩ := step_keepsValidSlots_or_h4 hstep
  · exact absurd (hkeep i hvalid) hchanged
  · exact ⟨hmove, hlabel, State.handlerComplete_changed_slot hchanged⟩

end Sys2Proof

/-! What moves the Power Sequencer (46_power_sequencer.md rules R414 and R423): the operations that leave its state and
its signals as they are, and what POWER_ON and POWER_OFF do to pseq_state and REG_MODE. -/

namespace Sys2Proof.Machine

/-! ## The RX engine -/

@[simp] theorem State.afterSearch_pwr (s : State) (r : SearchEnd × Window × Nat) : (s.afterSearch r).pwr = s.pwr := by
  obtain ⟨e, w, a⟩ := r
  cases e with
  | found => simp only [State.afterSearch]; split <;> rfl
  | needsRead => rfl
  | timeout => rfl

@[simp] theorem State.afterWord_pwr (s : State) (w : Window) : (s.afterWord w).pwr = s.pwr := by
  unfold State.afterWord
  split <;> rfl

@[simp] theorem State.locateStep_getD_pwr (s : State) : (s.locateStep.getD s).pwr = s.pwr := by
  cases hl : s.rx.label <;> simp only [State.locateStep, hl, Option.getD_some, Option.getD_none]
  case l2 => simp [State.locateL2]
  case l4 => simp [State.locateL4]
  case l8 => simp [State.locateL8]
  case l9 => simp [State.locateL9]
  case l10 => simp [State.locateL10]
  all_goals rfl

@[simp] theorem State.bodyDone_pwr (s : State) : s.bodyDone.pwr = s.pwr := rfl

@[simp] theorem State.drainChunk_pwr (s : State) (n : Nat) : (s.drainChunk n).pwr = s.pwr := by
  unfold State.drainChunk
  split <;> rfl

@[simp] theorem State.thenDrain_pwr (s : State) (n : Nat) : (s.thenDrain n).pwr = s.pwr := by
  unfold State.thenDrain
  split <;> rfl

@[simp] theorem State.bodyB4_pwr (s : State) : s.bodyB4.pwr = s.pwr := by
  unfold State.bodyB4
  split <;> simp

@[simp] theorem State.bodyB3_pwr (s : State) (e : Entry) : (s.bodyB3 e).pwr = s.pwr := by
  unfold State.bodyB3
  split <;> simp

@[simp] theorem State.bodyB1_pwr (s : State) : s.bodyB1.pwr = s.pwr := by
  unfold State.bodyB1
  split
  · simp
  · dsimp only
    split <;> simp

theorem State.readToMemory_pwr {s t : State} {addr n : Nat} (h : s.readToMemory addr n = some t) : t.pwr = s.pwr := by
  obtain ⟨-, rfl⟩ := State.readToMemory_eq_some h
  rfl

theorem State.bodyStep_pwr {s t : State} (h : s.bodyStep = some t) : t.pwr = s.pwr := by
  cases hl : s.rx.label <;> cases hr : s.rx.slot <;> simp only [State.bodyStep, hl, hr, reduceCtorEq] at h
  case b1.none | b1.some => cases h; simp
  case b2.some | b3.some =>
    obtain ⟨u, hu, rfl⟩ := Option.map_eq_some_iff.mp h
    simpa using State.readToMemory_pwr hu
  case d1.none | d1.some =>
    obtain rfl := Option.some.inj h
    split <;> simp

@[simp] theorem State.bodyStep_getD_pwr (s : State) : (s.bodyStep.getD s).pwr = s.pwr := by
  cases h : s.bodyStep with
  | none => rfl
  | some t => exact State.bodyStep_pwr h

@[simp] theorem State.settle_pwr (s : State) : s.settle.pwr = s.pwr := by
  unfold State.settle
  split <;> simp

@[simp] theorem State.handlerResolve_pwr (s : State) : s.handlerResolve.pwr = s.pwr := rfl

@[simp] theorem State.handlerComplete_pwr (s : State) : s.handlerComplete.pwr = s.pwr := by
  unfold State.handlerComplete
  split <;> rfl

theorem execOnNwpIrq_pwr {s u : State} (h : execOnNwpIrq s = .next u) : u.pwr = s.pwr := by
  cases hl : s.rx.label <;> simp only [execOnNwpIrq, hl] at h
  case h0 => split at h <;> cases h <;> rfl
  case h5 => cases h; rfl
  all_goals cases h; simp

/-! ## The ports and the host's submissions -/

theorem State.insertRequest_pwr {s t : State} {p : Port} {e : Entry} (h : s.insertRequest p e = some t) :
    t.pwr = s.pwr := by
  obtain ⟨i, -, rfl⟩ := State.insertRequest_spec h
  rfl

@[simp] theorem State.writeSegment_pwr (s : State) (p : Port) (r : Request) (l : WriteLabel) :
    (s.writeSegment p r l).pwr = s.pwr := by
  unfold State.writeSegment
  dsimp only
  split
  · split
    · next t ht =>
      obtain ⟨-, rfl⟩ := State.sendFromMemory_eq_some ht
      rfl
    · rfl
  · rfl

theorem State.writeStep_pwr {s u : State} {p : Port} {r : Request} (h : s.writeStep p r = some (.next u)) :
    u.pwr = s.pwr := by
  cases hl : (s.port p).wlabel <;> simp only [State.writeStep, hl, reduceCtorEq] at h
  case w1 => split at h <;> cases h; rfl
  case w2 => cases h; rfl
  case w3 | w4 | w5 => cases h; simp

@[simp] theorem State.sendRegister_pwr (s : State) (p : Port) (r : Request) : (s.sendRegister p r).pwr = s.pwr := by
  unfold State.sendRegister
  split
  · next t ht => rw [State.setPort_pwr, State.insertRequest_pwr ht]
  · rfl

theorem State.sendStep_pwr {s u : State} {p : Port} {r : Request} (h : s.sendStep p r = .next u) :
    u.pwr = s.pwr := by
  cases hp : (s.port p).phase <;> simp only [State.sendStep, hp] at h
  case idle | power => cases h; rfl
  case registering => cases h; simp
  case writing =>
    cases hw : s.writeStep p r <;> rw [hw] at h <;> cases h
    case none => rfl
    case some => exact State.writeStep_pwr hw
  case waiting => split at h <;> cases h <;> rfl

theorem execSendCommand_pwr {exp : Bool} {c : Half} {s u : State} (h : execSendCommand exp c s = .next u) :
    u.pwr = s.pwr := by
  cases hm : s.nextMove <;> simp only [execSendCommand, hm] at h
  case port p =>
    split at h
    · exact State.sendStep_pwr h
    · cases h; rfl
  all_goals cases h; rfl

@[simp] theorem State.acceptIllegal_pwr (s : State) (p : Port) : (s.acceptIllegal p).pwr = s.pwr := rfl

@[simp] theorem State.acceptWord_pwr (s : State) (p : Port) (v : Word) : (s.acceptWord p v).pwr = s.pwr := by
  obtain ⟨-, hd⟩ | ⟨-, -, -, hd⟩ | ⟨-, -, -, hd⟩ | ⟨-, -, -, hd⟩ := decodeCtrlWord_cases v <;>
    simp [State.acceptWord, hd]

@[simp] theorem State.submit_pwr (s : State) (p : Port) (v : Word) : (s.submit p v).pwr = s.pwr := by
  unfold State.submit
  dsimp only
  split <;> simp

theorem execSubmit_pwr {p : Port} {v : Word} {s u : State} (h : execSubmit p v s = .next u) : u.pwr = s.pwr := by
  unfold execSubmit at h
  split at h <;> cases h <;> simp

theorem execIllegal_pwr {w : Word} {s u : State} (h : execIllegal w s = .next u) : u.pwr = s.pwr := by
  cases hc : s.ctrlWritePort with
  | none => simp only [execIllegal, hc] at h; cases h; rfl
  | some p =>
    by_cases hi : isIllegal w = true
    · rw [illegal_eq_submit hc hi] at h; cases h; simp
    · simp only [execIllegal, hc, hi] at h; cases h; rfl

/-! ## Moves that are no operation -/

@[simp] theorem State.writeReg_pwr (s : State) (r : Reg) (v : Word) : (s.writeReg r v).pwr = s.pwr := by
  cases r with
  | statusClr p => simp only [State.writeReg]; split <;> rfl
  | gstatus => simp only [State.writeReg]; split <;> rfl
  | _ => rfl

theorem State.hostStep_pwr {s u : State} {m : HostMove} (h : s.hostStep m = .next u) : u.pwr = s.pwr := by
  cases m with
  | read addr w => simp only [State.hostStep] at h; split at h <;> cases h <;> rfl
  | write addr w v => simp only [State.hostStep] at h; split at h <;> cases h <;> simp

/-- The environment drives the two acknowledges and WAKE_CONFIG, and nothing else of the sequencer. -/
theorem State.envStep_pwr_state_regMode (s : State) (e : EnvMove) :
    (s.envStep e).pwr.state = s.pwr.state ∧ (s.envStep e).pwr.regMode = s.pwr.regMode := by
  cases e <;> exact ⟨rfl, rfl⟩

theorem State.plainMove_pwr_state_regMode {s u : State} (h : s.plainMove = .next u) :
    u.pwr.state = s.pwr.state ∧ u.pwr.regMode = s.pwr.regMode := by
  cases hm : s.nextMove <;> simp only [State.plainMove, hm] at h
  case host => rw [State.hostStep_pwr h]; exact ⟨rfl, rfl⟩
  case env e => cases h; exact s.envStep_pwr_state_regMode e
  all_goals cases h; exact ⟨rfl, rfl⟩

/-! ## The sequencer -/

/-- POWER_ON leaves REG_MODE alone (rule R414), and writes pseq_state at PON1, which is also the acceptance step, and at
PON6 (rule R400). -/
theorem execPowerOn_cases {s u : State} (h : execPowerOn s = .next u) :
    u.pwr.regMode = s.pwr.regMode ∧
      (u.pwr.state = s.pwr.state ∨
        (u.pwr.state = .poweringOn ∧ u.pwr.step = .pon2 ∧ (s.pwr.step = .idle ∨ s.pwr.step = .pon1)) ∨
        (u.pwr.state = .on ∧ s.pwr.step = .pon6)) := by
  cases hl : s.pwr.step <;> simp only [execPowerOn, hl] at h
  case idle =>
    split at h
    · split at h <;> cases h
      · exact ⟨rfl, .inr (.inl ⟨rfl, rfl, .inl rfl⟩)⟩
      · exact ⟨rfl, .inl rfl⟩
    · cases h; exact ⟨rfl, .inl rfl⟩
  case pon1 => cases h; exact ⟨rfl, .inr (.inl ⟨rfl, rfl, .inr rfl⟩)⟩
  case pon5 =>
    split at h
    · next t ht => cases h; simp [State.insertRequest_pwr ht]
    · cases h; exact ⟨rfl, .inl rfl⟩
  case pon6 =>
    split at h <;> cases h
    · exact ⟨rfl, .inr (.inr ⟨rfl, rfl⟩)⟩
    · exact ⟨rfl, .inl rfl⟩
  all_goals cases h; exact ⟨rfl, .inl rfl⟩

/-- POWER_OFF writes pseq_state at POF1, which is also the acceptance step, and at POF8, and REG_MODE at POF6 (rule
R401). -/
theorem execPowerOff_cases {s u : State} (h : execPowerOff s = .next u) :
    (u.pwr.state = s.pwr.state ∧ u.pwr.regMode = s.pwr.regMode) ∨
      (u.pwr.state = .poweringOff ∧ u.pwr.regMode = s.pwr.regMode ∧ u.pwr.step = .pof2 ∧
        (s.pwr.step = .idle ∨ s.pwr.step = .pof1)) ∨
      (u.pwr.state = s.pwr.state ∧ u.pwr.regMode = .lowPower ∧ s.pwr.step = .pof6 ∧ u.pwr.step = .pof7) ∨
      (u.pwr.state = .off ∧ u.pwr.regMode = s.pwr.regMode ∧ s.pwr.step = .pof8) := by
  cases hl : s.pwr.step <;> simp only [execPowerOff, hl] at h
  case idle =>
    split at h
    · split at h <;> cases h
      · exact .inr (.inl ⟨rfl, rfl, rfl, .inl rfl⟩)
      · exact .inl ⟨rfl, rfl⟩
    · cases h; exact .inl ⟨rfl, rfl⟩
  case pof1 => cases h; exact .inr (.inl ⟨rfl, rfl, rfl, .inr rfl⟩)
  case pof2 | pof3 => split at h <;> cases h <;> exact .inl ⟨rfl, rfl⟩
  case pof6 => cases h; exact .inr (.inr (.inl ⟨rfl, rfl, rfl, rfl⟩))
  case pof8 => cases h; exact .inr (.inr (.inr ⟨rfl, rfl, rfl⟩))
  all_goals cases h; exact .inl ⟨rfl, rfl⟩

/-- POF6 changes REG_MODE and the label, and records the level (rule R401). -/
theorem execPowerOff_pof6 {s : State} (h : s.pwr.step = .pof6) :
    execPowerOff s = .next { s with
      pwr := { s.pwr with regMode := .lowPower, step := .pof7 }
      history := s.history ++ [.level .regMode true] } := by
  simp only [execPowerOff, h]
  rfl

/-! ## Every step -/

@[simp] theorem State.finish_pwr (s t : State) : (s.finish t).pwr = t.pwr := rfl

/-- A step that writes pseq_state or REG_MODE is one of POWER_ON or of POWER_OFF. -/
theorem step_power_cases {s t : State} (h : step s = .next t) :
    (t.pwr.state = s.pwr.state ∧ t.pwr.regMode = s.pwr.regMode) ∨
      ∃ u, t.pwr = u.pwr ∧ (execPowerOn s = .next u ∨ execPowerOff s = .next u) := by
  have same {u : State} (hu : u.pwr = s.pwr) : u.pwr.state = s.pwr.state ∧ u.pwr.regMode = s.pwr.regMode :=
    ⟨congrArg _ hu, congrArg _ hu⟩
  obtain ⟨u, rfl, ⟨i, hf, hu⟩ | ⟨-, hu⟩⟩ := step_next h <;> rw [State.finish_pwr]
  · obtain ⟨-, rfl⟩ | ⟨w, rfl⟩ | ⟨p, v, rfl⟩ := State.fetch_cases hf
    · exact .inl (same (execOnNwpIrq_pwr hu))
    · obtain ⟨-, hd⟩ | ⟨-, -, -, hd⟩ | ⟨-, -, -, hd⟩ | ⟨-, -, -, hd⟩ := decodeCtrlWord_cases w <;> rw [hd] at hu
      · exact .inl (same (execIllegal_pwr hu))
      · exact .inl (same (execSendCommand_pwr hu))
      · exact .inr ⟨u, rfl, .inl hu⟩
      · exact .inr ⟨u, rfl, .inr hu⟩
    · exact .inl (same (execSubmit_pwr hu))
  · exact .inl (State.plainMove_pwr_state_regMode hu)

end Sys2Proof.Machine

namespace Sys2Proof

open Machine

/-- Settles O40: the labels at which POWER_ON and POWER_OFF write pseq_state, and what the invariant says of pseq_state
at each of them; the sequencer never rests at PON1 or POF1. -/
theorem pseqStateTransitions : Obligations.PseqStateTransitions := by
  refine ⟨rfl, fun s t hinv hstep hchanged => ?_⟩
  have hpower := hinv.power
  obtain ⟨hsame, -⟩ | ⟨u, hpwr, hu | hu⟩ := step_power_cases hstep
  · exact absurd hsame hchanged
  · rw [hpwr] at hchanged ⊢
    obtain ⟨-, hsame | ⟨hon, hpon2, hidle | hpon1⟩ | ⟨hon, hpon6⟩⟩ := execPowerOn_cases hu
    · exact absurd hsame hchanged
    · exact .inl ⟨hon, hpon2, hidle, hpower.idle hidle⟩
    · exact absurd hpon1 hpower.at_rest.1
    · exact .inr (.inl ⟨(hpower.on_steps (by rw [hpon6]; rfl)).1, hon, hpon6⟩)
  · rw [hpwr] at hchanged ⊢
    obtain ⟨hsame, -⟩ | ⟨hoff, -, hpof2, hidle | hpof1⟩ | ⟨hsame, -⟩ | ⟨hoff, -, hpof8⟩ := execPowerOff_cases hu
    · exact absurd hsame hchanged
    · exact .inr (.inr (.inl ⟨hoff, hpof2, hidle, hpower.idle hidle⟩))
    · exact absurd hpof1 hpower.at_rest.2
    · exact absurd hsame hchanged
    · exact .inr (.inr (.inr ⟨(hpower.off_steps (by rw [hpof8]; rfl)).1, hoff, hpof8⟩))

/-- Settles O41: POF6 is the one writer of REG_MODE, whichever agent moves. -/
theorem regulatorNeverRestored : Obligations.RegulatorNeverRestored := by
  refine ⟨fun s hpof6 => execPowerOff_pof6 hpof6, fun s t hon => (execPowerOn_cases hon).1, fun s t hstep => ?_⟩
  obtain ⟨-, hsame⟩ | ⟨u, hpwr, hu | hu⟩ := step_power_cases hstep
  · exact .inl hsame
  · rw [hpwr]
    exact .inl (execPowerOn_cases hu).1
  · rw [hpwr]
    obtain ⟨-, hsame⟩ | ⟨-, hsame, -⟩ | ⟨-, hpof6⟩ | ⟨-, hsame, -⟩ := execPowerOff_cases hu
    · exact .inl hsame
    · exact .inl hsame
    · exact .inr hpof6
    · exact .inl hsame

end Sys2Proof

/-! The decoder and the encoder against each other, format by format (30_encoding.md sections 2 and 3). -/

namespace Sys2Proof

/-! ## A CTRL word by its fields (rule R111) -/

theorem ctrlWord_fields (w : Word) : ctrlWord (ctrlCmdOpcode w) (ctrlRsv w) (ctrlExp w) (ctrlOp w) = w := by
  have hexp : BitVec.ofBool (ctrlExp w) = w.extractLsb' 4 1 := by
    rw [ctrlExp]; ext i hi; grind
  rw [ctrlWord, hexp, ctrlCmdOpcode, ctrlRsv, ctrlOp,
    BitVec.extractLsb'_append_extractLsb'_eq_extractLsb' (show 16 = 5 + 11 from rfl),
    BitVec.extractLsb'_append_extractLsb'_eq_extractLsb' (show 5 = 4 + 1 from rfl),
    BitVec.extractLsb'_append_extractLsb'_eq_extractLsb' (show 4 = 0 + 4 from rfl), BitVec.extractLsb'_eq_self]

theorem toNat_ctrlOp (w : Word) : (ctrlOp w).toNat = w.toNat % 16 := by simp [ctrlOp]

theorem toNat_ctrlRsv (w : Word) : (ctrlRsv w).toNat = w.toNat / 32 % 2048 := by
  simp [ctrlRsv, Nat.shiftRight_eq_div_pow]

theorem toNat_ctrlCmdOpcode (w : Word) : (ctrlCmdOpcode w).toNat = w.toNat / 65536 := by
  have hw := w.isLt
  simp only [ctrlCmdOpcode, BitVec.extractLsb'_toNat, Nat.shiftRight_eq_div_pow]
  omega

theorem toNat_highBits (w : Word) : (w.extractLsb' 4 28).toNat = w.toNat / 16 := by
  have hw := w.isLt
  simp only [BitVec.extractLsb'_toNat, Nat.shiftRight_eq_div_pow]
  omega

theorem ctrlExp_eq_decide (w : Word) : ctrlExp w = decide (w.toNat / 16 % 2 = 1) := by
  rw [ctrlExp, BitVec.getLsbD, Nat.testBit_eq_decide_div_mod_eq]

/-- The mask of rule R112 keeps RSV and OP. -/
theorem ctrlWord_and_sendMask (c : Half) (r : BitVec 11) (e : Bool) (o : BitVec 4) :
    ctrlWord c r e o &&& 0x0000FFEF#32 = ctrlWord 0#16 r false o := by
  have hmask : 0x0000FFEF#32 = 0#16 ++ BitVec.allOnes 11 ++ 0#1 ++ BitVec.allOnes 4 := by decide
  rw [hmask, ctrlWord, BitVec.and_append, BitVec.and_append, BitVec.and_append, BitVec.and_allOnes,
    BitVec.and_allOnes, BitVec.and_zero, BitVec.and_zero]
  rfl

/-! ## What a CTRL word decodes to (rules R112 to R114) -/

theorem decodeCtrlWord_eq_illegal_iff (w : Word) : decodeCtrlWord w = .illegal w ↔ isIllegal w = true := by
  obtain ⟨hi, hd⟩ | ⟨hi, -, -, hd⟩ | ⟨hi, -, -, hd⟩ | ⟨hi, -, -, hd⟩ := decodeCtrlWord_cases w <;> simp [hi, hd]

theorem decodeCtrlWord_eq_send_iff (w : Word) (e : Bool) (o : Half) :
    decodeCtrlWord w = .sendCommand e o ↔ (ctrlOp w = 1#4 ∧ ctrlRsv w = 0#11) ∧ e = ctrlExp w ∧ o = ctrlCmdOpcode w := by
  constructor
  · intro h
    obtain ⟨-, hd⟩ | ⟨-, hop, hrsv, hd⟩ | ⟨-, -, -, hd⟩ | ⟨-, -, -, hd⟩ := decodeCtrlWord_cases w
    case inr.inl =>
      rw [hd] at h
      cases h
      exact ⟨⟨hop, hrsv⟩, rfl, rfl⟩
    all_goals simp [hd] at h
  · rintro ⟨⟨hop, hrsv⟩, rfl, rfl⟩
    simp [decodeCtrlWord, isIllegal, hop, hrsv]

theorem isIllegal_iff_toNat (w : Word) :
    isIllegal w = true ↔
      (w.toNat % 16 = 0 ∨ 4 ≤ w.toNat % 16) ∨ (w.toNat % 16 = 1 ∧ w.toNat / 32 % 2048 ≠ 0) ∨
        ((w.toNat % 16 = 2 ∨ w.toNat % 16 = 3) ∧ w.toNat / 16 ≠ 0) := by
  simp only [← toNat_ctrlOp, ← toNat_ctrlRsv, ← toNat_highBits]
  have hop (n : BitVec 4) : ctrlOp w = n ↔ (ctrlOp w).toNat = n.toNat := BitVec.toNat_inj.symm
  have hrsv : ctrlRsv w = 0#11 ↔ (ctrlRsv w).toNat = 0 := BitVec.toNat_inj.symm
  have hhigh : w.extractLsb' 4 28 = 0#28 ↔ (w.extractLsb' 4 28).toNat = 0 := BitVec.toNat_inj.symm
  unfold isIllegal
  split
  · next h1 => simp [h1, hrsv]
  · next h1 =>
    split
    · next h2 =>
      have hne : (ctrlOp w).toNat = 2 ∨ (ctrlOp w).toNat = 3 := h2.imp (hop _).mp (hop _).mp
      rw [bne_iff_ne, ne_eq, hhigh]
      omega
    · next h2 =>
      rw [hop] at h1
      rw [hop, hop] at h2
      simp only [BitVec.toNat_ofNat] at h1 h2
      exact iff_of_true rfl (by omega)

/-! ## The fields of the wire words (rules R118 and R120) -/

theorem n2hSyncValue_fields (c : Params) (b : Bool) (q : BitVec 2) :
    (n2hSyncValue c b q).extractLsb' 3 29 = c.n2hSync.extractLsb' 3 29 ∧ (n2hSyncValue c b q).getLsbD 2 = b ∧
      (n2hSyncValue c b q).extractLsb' 0 2 = q := by
  obtain ⟨htag, -, hseq⟩ := fields_inj.mp (tag_append_seqSet_append_seq (n2hSyncValue c b q))
  exact ⟨htag, getLsbD_two_n2hSyncValue c b q, hseq⟩

theorem headerValue_fields (opcode length : Half) :
    (headerValue opcode length).extractLsb' 0 16 = opcode ∧ (headerValue opcode length).extractLsb' 16 16 = length := by
  constructor <;> ext i hi <;> simp only [headerValue, BitVec.getElem_extractLsb', BitVec.getLsbD_append]
  · simp [hi]
  · simp [hi, show ¬16 + i < 16 by omega, show 16 + i - 16 = i by omega]

theorem headerValue_of_fields (w : Word) : headerValue (w.extractLsb' 0 16) (w.extractLsb' 16 16) = w := by
  rw [headerValue, BitVec.extractLsb'_append_extractLsb'_eq_extractLsb' (show 16 = 0 + 16 from rfl),
    BitVec.extractLsb'_eq_self]

/-! ## Round trips of one word -/

theorem decodeN2hWord_n2hSyncValue (c : Params) {b : Bool} {q : BitVec 2} (hwf : (b || q == 0#2) = true) :
    decodeN2hWord c (n2hSyncValue c b q) = some (.n2hSyncWord b q) := by
  obtain ⟨htag, hset, hseq⟩ := n2hSyncValue_fields c b q
  rw [decodeN2hWord, htag, hset, hseq, if_pos ⟨rfl, by simpa using hwf⟩]

theorem decodeWord_of_encodeWord {c : Params} {f : Format} {i : Instr} {w : Word} (hwf : i.wf c = true)
    (hf : i.format = some f) (he : encodeWord c i = some w) : decodeWord c f w = .ok i := by
  cases i <;> simp only [Instr.format, reduceCtorEq] at hf <;> cases hf <;>
    simp only [encodeWord, Option.some.injEq] at he <;> subst he
  case sendCommand e o => exact congrArg Except.ok (decodeCtrlWord_send o e)
  case powerOn => rfl
  case powerOff => rfl
  case illegal w => exact congrArg Except.ok ((decodeCtrlWord_eq_illegal_iff w).mpr hwf)
  case h2nSyncWord => rfl
  case h2nCnysWord => rfl
  case n2hSyncWord b q => rw [decodeWord, decodeN2hWord_n2hSyncValue c hwf]
  case frameHeader o l =>
    obtain ⟨hop, hlen⟩ := headerValue_fields o l
    rw [decodeWord, decodeHeaderWord, hop, hlen]

/-- What a CTRL word decodes to is well formed and has that word. -/
theorem encodeWord_decodeCtrlWord (c : Params) (w : Word) :
    (decodeCtrlWord w).wf c = true ∧ (decodeCtrlWord w).format = some .ctrl ∧
      encodeWord c (decodeCtrlWord w) = some w := by
  obtain ⟨hi, hd⟩ | ⟨-, hop, hrsv, hd⟩ | ⟨-, -, -, hd⟩ | ⟨-, -, -, hd⟩ := decodeCtrlWord_cases w
  · rw [hd]
    exact ⟨hi, rfl, rfl⟩
  · have hfields := ctrlWord_fields w
    rw [hop, hrsv] at hfields
    rw [hd]
    exact ⟨rfl, rfl, congrArg some hfields⟩
  · obtain rfl := (decodeCtrlWord_eq_powerOn_iff w).mp hd
    exact ⟨rfl, rfl, rfl⟩
  · obtain rfl := (decodeCtrlWord_eq_powerOff_iff w).mp hd
    exact ⟨rfl, rfl, rfl⟩

theorem encodeWord_of_decodeH2nWord {c : Params} {w : Word} {i : Instr} (h : decodeH2nWord w = some i) :
    i.wf c = true ∧ i.format = some .h2n ∧ encodeWord c i = some w := by
  unfold decodeH2nWord at h
  split at h
  · next hw => cases h; exact ⟨rfl, rfl, congrArg some hw.symm⟩
  · split at h
    · next hw => cases h; exact ⟨rfl, rfl, congrArg some hw.symm⟩
    · cases h

theorem encodeWord_of_decodeN2hWord {c : Params} {w : Word} {i : Instr} (h : decodeN2hWord c w = some i) :
    i.wf c = true ∧ i.format = some .n2h ∧ encodeWord c i = some w := by
  unfold decodeN2hWord at h
  split at h
  · next hw =>
    cases h
    refine ⟨by simpa [Instr.wf] using hw.2, rfl, ?_⟩
    rw [encodeWord, n2hSyncValue, ← hw.1, tag_append_seqSet_append_seq]
  · cases h

theorem decode_bytes32_append {c : Params} {f : Format} {w : Word} {i : Instr} (h : decodeWord c f w = .ok i)
    (rest : List Byte) : decode c f (bytes32 w ++ rest) = .ok (i, rest) := by
  simp only [bytes32, List.cons_append, List.nil_append, decode, le32_bytes32, h]

/-- Settles O1: four bytes hold one word, and the word of each format decodes back. -/
theorem decodeEncodeRoundTrip : Obligations.DecodeEncodeRoundTrip := by
  refine fun c i => ⟨by cases i <;> rfl, fun f bytes rest hwf hf he => ?_⟩
  obtain ⟨w, hw, rfl⟩ := Option.map_eq_some_iff.mp he
  exact ⟨length_bytes32 w, decode_bytes32_append (decodeWord_of_encodeWord hwf hf hw) rest⟩

/-- Settles O2, format by format. -/
theorem encodeDecodeRoundTrip : Obligations.EncodeDecodeRoundTrip := by
  intro c f w i h
  cases f <;> simp only [decodeWord] at h
  case ctrl =>
    cases h
    exact encodeWord_decodeCtrlWord c w
  case h2n =>
    split at h
    · next hi => cases h; exact encodeWord_of_decodeH2nWord hi
    · cases h
  case n2h =>
    split at h
    · next hi => cases h; exact encodeWord_of_decodeN2hWord hi
    · cases h
  case header =>
    cases h
    exact ⟨rfl, rfl, congrArg some (headerValue_of_fields w)⟩

/-- Settles O4: the fields of a CTRL word as quotients and remainders of its value. -/
theorem ctrlWordsClassified : Obligations.CtrlWordsClassified := by
  refine fun w => ⟨(decodeCtrlWord_eq_illegal_iff w).trans (isIllegal_iff_toNat w), ?mask, ?operands⟩
  case mask =>
    have hone : 0x00000001#32 = ctrlWord 0#16 0#11 false 1#4 := by decide
    conv => rhs; rw [← ctrlWord_fields w, ctrlWord_and_sendMask, hone]
    simp only [decodeCtrlWord_eq_send_iff, exists_and_left, exists_eq, and_true]
    constructor
    · rintro ⟨hop, hrsv⟩
      rw [hop, hrsv]
    · intro h
      exact ⟨by simpa using congrArg ctrlOp h, by simpa using congrArg ctrlRsv h⟩
  case operands =>
    intro e o h
    obtain ⟨-, rfl, rfl⟩ := (decodeCtrlWord_eq_send_iff w e o).mp h
    exact ⟨ctrlExp_eq_decide w, toNat_ctrlCmdOpcode w⟩

/-- Settles O5: each word is decoded by its own format's case. -/
theorem specWordsDecode : Obligations.SpecWordsDecode := by
  refine ⟨?_, ?_, ?_, ?_, ?_, ?_, ?_, ?_, ?_⟩ <;> decide

end Sys2Proof

/-! What one step of ON_NWP_IRQ does to the whole state (45_receive_handler.md rule R360), said once, label by label:
the statements about every step are case analyses over it. -/

namespace Sys2Proof.Machine

/-! ## LOCATE's internal updates -/

theorem State.afterSearch_found_aligned (s : State) (w : Window) {a : Nat} (ha : a % 4 = 0) :
    s.afterSearch (.found, w, a) = { s with rx := { s.rx with window := w, a := a, m := 0, label := .l9 } } := by
  have hm : Fin.ofNat 4 a = 0 := Fin.ext ha
  simp only [State.afterSearch, hm, if_true]

theorem State.afterSearch_found_misaligned (s : State) (w : Window) {a : Nat} (ha : a % 4 ≠ 0) :
    s.afterSearch (.found, w, a) =
      { s with rx := { s.rx with window := w.rebase, a := a, m := Fin.ofNat 4 a, label := .l8 } } := by
  have hm : Fin.ofNat 4 a ≠ 0 := fun h => ha (congrArg Fin.val h)
  simp only [State.afterSearch, if_neg hm]

theorem State.afterWord_accepted {s : State} {w : Window} (h : syncMatch s.cfg w.candidate s.txSeqNum = true) :
    s.afterWord w = { s with rx := { s.rx with window := w, label := .l10 } } :=
  if_pos h

theorem State.afterWord_wordA {s : State} {w : Window} (h : syncMatch s.cfg w.candidate s.txSeqNum = false) :
    s.afterWord w = { s with txSeqNum := s.txSeqNum + 1#8, rx := { s.rx with window := w, label := .l11 } } :=
  if_neg (by simp [h])

/-- Where LOCATE's own updates leave the RX engine: the labels its next step or its return can have, with what the
invariant says of `a` and `m` at each of them. -/
structure LocatePosition (l : RxLabel) (a : Nat) (m : Fin 4) : Prop where
  label : l.reading = true ∧ l ≠ .l1 ∧ l ≠ .h2 ∨ l = .locOk ∨ l = .h6
  attempts : a ≤ syncScanLimit
  search : l = .l4 → a % 4 = 0 ∧ a < syncScanLimit
  misaligned : l = .l8 ∨ l = .l12 → m ≠ 0
  aligned : l = .l9 → m = 0

theorem LocatePosition.mk' {l : RxLabel} {a : Nat} {m : Fin 4} (ha : a ≤ syncScanLimit)
    (hl : l = .l2 ∨ l = .l10 ∨ l = .l11 ∨ l = .locOk ∨ l = .h6) : LocatePosition l a m := by
  obtain rfl | rfl | rfl | rfl | rfl := hl <;> exact ⟨by decide, ha, by simp, by simp, by simp⟩

/-- A step of LOCATE after its first: one transport read, updates of the window, the counters and the position, and at
the end of the skip loop the increment of tx_seq_num (41_frame_sync.md rule R211). -/
inductive LocateRead (s : State) : State → Prop where
  /-- The search or the skip loop goes on, LOCATE reads the header or the filler, or it returns. -/
  | goesOn (n : Nat) (l : RxLabel) (w : Window) (a : Nat) (m : Fin 4) (hn : RxInv s → 0 < n)
      (hpos : RxInv s → LocatePosition l a m)
      (hl : l ≠ .l11 ∧ (l.reading = true ∧ l ≠ .h2 ∨ l = .locOk ∨ l = .h6)) :
      LocateRead s { s.transportRead n with rx := { s.rx with label := l, window := w, a := a, m := m } }
  /-- The skip loop ends with word A. -/
  | endsSkip (n : Nat) (w : Window) (hn : RxInv s → 0 < n) (hl : s.rx.label ≠ .l11) :
      LocateRead s { s.transportRead n with
        txSeqNum := s.txSeqNum + 1#8, rx := { s.rx with label := .l11, window := w } }

/-- The position after a search whose end is as `searchFrom_spec` says. -/
theorem locateRead_of_search {s : State} {n : Nat} {r : SearchEnd × Window × Nat} (hn : 0 < n)
    (hr : RxInv s → match r with
      | (.found, _, b) => b < 40
      | (.needsRead, _, b) => b % 4 = 0 ∧ b < 40
      | (.timeout, _, b) => b = 40) :
    LocateRead s ((s.transportRead n).afterSearch r) := by
  obtain ⟨e, w, a⟩ := r
  cases e with
  | found =>
    by_cases ha : a % 4 = 0
    · rw [State.afterSearch_found_aligned _ _ ha]
      exact .goesOn n .l9 w a 0 (fun _ => hn)
        (fun h => ⟨by decide, Nat.le_of_lt (hr h), by simp, by simp, fun _ => rfl⟩) (by decide)
    · rw [State.afterSearch_found_misaligned _ _ ha]
      exact .goesOn n .l8 w.rebase a (Fin.ofNat 4 a) (fun _ => hn)
        (fun h => ⟨by decide, Nat.le_of_lt (hr h), by simp, fun _ h0 => ha (congrArg Fin.val h0), by simp⟩) (by decide)
  | needsRead =>
    exact .goesOn n .l4 w a s.rx.m (fun _ => hn)
      (fun h => ⟨by decide, Nat.le_of_lt (hr h).2, fun _ => hr h, by simp, by simp⟩) (by decide)
  | timeout =>
    exact .goesOn n .h6 w a s.rx.m (fun _ => hn) (fun h => .mk' (Nat.le_of_eq (hr h)) (by simp)) (by decide)

theorem locateRead_of_word {s : State} {n : Nat} (w : Window) (hn : RxInv s → 0 < n) (hl : s.rx.label ≠ .l11) :
    LocateRead s ((s.transportRead n).afterWord w) := by
  cases hm : syncMatch s.cfg w.candidate s.txSeqNum with
  | true =>
    rw [State.afterWord_accepted (s := s.transportRead n) hm]
    exact .goesOn n .l10 w s.rx.a s.rx.m hn (fun h => .mk' h.attempts (by simp)) (by decide)
  | false =>
    rw [State.afterWord_wordA (s := s.transportRead n) hm]
    exact .endsSkip n w hn hl

theorem filler_pos {m : Fin 4} (h : m ≠ 0) : 0 < filler m := by
  rw [filler, if_neg h]
  omega

/-- Every step of LOCATE but the first is a read. -/
theorem State.locateStep_read {s t : State} (h : s.locateStep = some t) (h1 : s.rx.label ≠ .l1) : LocateRead s t := by
  cases hl : s.rx.label <;> simp only [State.locateStep, hl, reduceCtorEq] at h <;> obtain rfl := Option.some.inj h
  case l1 => contradiction
  case l2 =>
    exact locateRead_of_search (by decide) fun _ => searchFrom_spec _ _ _ _ _ (by decide) (by decide) (.inl rfl)
  case l4 =>
    exact locateRead_of_search (by decide) fun h => searchAfterRead_spec _ _ _ _ (h.search hl).2 (h.search hl).1
  case l8 =>
    have hlab : s.rx.label ≠ .l11 := by simp [hl]
    exact locateRead_of_word _ (fun h => Nat.pos_of_ne_zero fun h0 => h.misaligned (.inl hl) (Fin.ext h0)) hlab
  case l9 => exact locateRead_of_word _ (fun _ => by decide) (by simp [hl])
  case l10 => exact locateRead_of_word _ (fun _ => by decide) (by simp [hl])
  case l11 =>
    refine .goesOn 4 _ _ s.rx.a s.rx.m (fun _ => by decide) (fun h => ?_) (by split <;> decide)
    split
    · exact .mk' h.attempts (by simp)
    · next hm => exact ⟨by decide, h.attempts, by simp, fun _ => hm, by simp⟩
  case l12 =>
    exact .goesOn _ .locOk s.rx.window s.rx.a s.rx.m (fun h => filler_pos (h.misaligned (.inr hl)))
      (fun h => .mk' h.attempts (by simp)) (by decide)

/-! ## READ_RESPONSE_BODY's internal updates -/

/-- Where the updates of a body leave the RX engine: at one of its reads, or past its end. -/
def RxLabel.inBody (l : RxLabel) : Prop := l.copying = true ∨ l = .h5

theorem RxLabel.inBody.ne_l11 {l : RxLabel} (h : l.inBody) : l ≠ .l11 := by
  rintro rfl
  simp [RxLabel.inBody, RxLabel.copying] at h

theorem State.bodyDone_eq (s : State) :
    ∃ l : RxLabel, l.inBody ∧ s.bodyDone = { s with rx := { s.rx with label := l } } := by
  refine ⟨_, ?_, rfl⟩
  split
  · exact .inl rfl
  · exact .inr rfl

theorem State.thenDrain_eq (s : State) (n : Nat) :
    ∃ (l : RxLabel) (d : Nat), l.inBody ∧ s.thenDrain n = { s with rx := { s.rx with label := l, drainLeft := d } } := by
  unfold State.thenDrain
  split
  · obtain ⟨l, hl, h⟩ := s.bodyDone_eq
    exact ⟨l, s.rx.drainLeft, hl, h⟩
  · exact ⟨.d1, n, .inl rfl, rfl⟩

/-- B4, and what comes before it in the same step, writes the RX engine, and counts at most one overflow. -/
theorem State.bodyB4_eq (s : State) :
    ∃ (c : Word) (l : RxLabel) (d : Nat), (c = s.cntOverflow ∨ c = s.cntOverflow + 1#32) ∧ l.inBody ∧
      s.bodyB4 = { s with cntOverflow := c, rx := { s.rx with label := l, drainLeft := d } } := by
  unfold State.bodyB4
  split
  · obtain ⟨l, hl, h⟩ := s.bodyDone_eq
    exact ⟨_, l, s.rx.drainLeft, .inl rfl, hl, h⟩
  · obtain ⟨l, d, hl, h⟩ := State.thenDrain_eq { s with cntOverflow := s.cntOverflow + 1#32 } s.rx.rem
    exact ⟨_, l, d, .inr rfl, hl, h⟩

theorem State.bodyB3_eq (s : State) (e : Entry) :
    ∃ (c : Word) (l : RxLabel) (d r : Nat), (c = s.cntOverflow ∨ c = s.cntOverflow + 1#32) ∧ l.inBody ∧
      s.bodyB3 e = { s with cntOverflow := c, rx := { s.rx with label := l, drainLeft := d, rem := r } } := by
  unfold State.bodyB3
  split
  · obtain ⟨c, l, d, hc, hl, h⟩ := State.bodyB4_eq { s with rx := { s.rx with rem := afterPayload e s.rx.rem } }
    exact ⟨c, l, d, _, hc, hl, h⟩
  · exact ⟨_, .b3, _, _, .inl rfl, .inl rfl, rfl⟩

theorem State.bodyB1_none {s : State} (hi : s.rx.slot = none) :
    s.bodyB1 = ({ s with cntNoMatch := s.cntNoMatch + 1#32 } : State).thenDrain s.rx.len.toNat := by
  unfold State.bodyB1
  split
  · rfl
  · next j hj => simp [hi] at hj

theorem State.bodyB1_some {s : State} {i : SlotIx} (hi : s.rx.slot = some i) :
    s.bodyB1 = if (s.slot i).entry.dcap = 0#16 then
        ({ s with rx := { s.rx with rem := remainder (s.slot i).entry s.rx.len } } : State).bodyB3 (s.slot i).entry
      else { s with rx := { s.rx with rem := remainder (s.slot i).entry s.rx.len, label := .b2 } } := by
  unfold State.bodyB1
  split
  · next hn => simp [hi] at hn
  · next j hj =>
    obtain rfl : j = i := Option.some.inj (hj.symm.trans hi)
    rfl

theorem State.bodyB1_eq (s : State) : ∃ (n c : Word) (l : RxLabel) (d r : Nat),
    (n = s.cntNoMatch ∧ c = s.cntOverflow ∨ n = s.cntNoMatch + 1#32 ∧ c = s.cntOverflow ∨
      n = s.cntNoMatch ∧ c = s.cntOverflow + 1#32) ∧ l.inBody ∧
    s.bodyB1 = { s with
      cntNoMatch := n, cntOverflow := c, rx := { s.rx with label := l, drainLeft := d, rem := r } } := by
  cases hi : s.rx.slot with
  | none =>
    obtain ⟨l, d, hl, h⟩ := State.thenDrain_eq { s with cntNoMatch := s.cntNoMatch + 1#32 } s.rx.len.toNat
    rw [State.bodyB1_none hi, h]
    exact ⟨_, _, l, d, s.rx.rem, .inr (.inl ⟨rfl, rfl⟩), hl, rfl⟩
  | some i =>
    rw [State.bodyB1_some hi]
    split
    · obtain ⟨c, l, d, r, hc, hl, h⟩ := State.bodyB3_eq
        { s with rx := { s.rx with rem := remainder (s.slot i).entry s.rx.len } } (s.slot i).entry
      exact ⟨_, c, l, d, r, hc.imp (⟨rfl, ·⟩) (.inr ⟨rfl, ·⟩), hl, h⟩
    · exact ⟨_, _, .b2, _, _, .inl ⟨rfl, rfl⟩, .inl rfl, rfl⟩

theorem State.bodyStep_b2 {s : State} {i : SlotIx} (hl : s.rx.label = .b2) (hi : s.rx.slot = some i) :
    s.bodyStep = (s.readToMemory (s.slot i).entry.dbase.toNat (s.slot i).entry.dcap.toNat).map
      (·.bodyB3 (s.slot i).entry) := by
  simp only [State.bodyStep, hl, hi]

theorem State.bodyStep_b3 {s : State} {i : SlotIx} (hl : s.rx.label = .b3) (hi : s.rx.slot = some i) :
    s.bodyStep = (s.readToMemory (s.slot i).entry.pbase.toNat (payloadRead (s.slot i).entry s.rx.rem)).map fun t =>
      ({ t with rx := { t.rx with rem := afterPayload (s.slot i).entry s.rx.rem } } : State).bodyB4 := by
  simp only [State.bodyStep, hl, hi]

theorem State.bodyStep_d1 {s : State} (hl : s.rx.label = .d1) :
    s.bodyStep = some (if (s.drainChunk s.rx.drainLeft).rx.drainLeft = 0 then (s.drainChunk s.rx.drainLeft).bodyDone
      else s.drainChunk s.rx.drainLeft) := by
  simp only [State.bodyStep, hl]

theorem State.bodyStep_no_slot {s : State} (hl : s.rx.label = .b2 ∨ s.rx.label = .b3) (hi : s.rx.slot = none) :
    s.bodyStep = none := by
  obtain hl | hl := hl <;> simp only [State.bodyStep, hl, hi]

/-- The steps of READ_RESPONSE_BODY after B1: the descriptor and the payload go to host memory, a chunk of DRAIN to the
scratch buffer (42_codec.md rules R241 to R243). -/
inductive BodyStep (s : State) : State → Prop where
  /-- The label, the bounds and the count of the buffer that the step stores to; it is admitted. -/
  | stores (i : SlotIx) (addr n : Nat) (c : Word) (l : RxLabel) (d r : Nat) (hi : s.rx.slot = some i)
      (hat : (s.rx.label = .b2 ∧ addr = (s.slot i).entry.dbase.toNat ∧ n = (s.slot i).entry.dcap.toNat) ∨
        (s.rx.label = .b3 ∧ addr = (s.slot i).entry.pbase.toNat ∧ n = payloadBytes (s.slot i).entry s.rx.rem))
      (hadm : admitted s.cfg addr n = true) (hc : c = s.cntOverflow ∨ c = s.cntOverflow + 1#32) (hl : l.inBody) :
      BodyStep s { s with
        inbound := s.inbound.drop n
        consumed := s.consumed + n
        mem := s.mem.write addr (s.streamBytes n)
        cntOverflow := c
        history := s.history ++ [.rx .rx (s.streamBytes n)] ++ [.memw .rx addr (s.streamBytes n)]
        rx := { s.rx with label := l, drainLeft := d, rem := r } }
  | drains (n : Nat) (l : RxLabel) (d : Nat) (hat : s.rx.label = .d1)
      (hn : n = min s.rx.drainLeft s.cfg.scratchBytes) (h0 : s.rx.drainLeft ≠ 0) (hl : l.inBody) :
      BodyStep s { s.transportRead n with
        rx := { s.rx with label := l, drainLeft := d, scratch := s.streamBytes n ++ s.rx.scratch.drop n } }
  /-- No step: the access is not admitted, or there is nothing left to drain. -/
  | moves (l : RxLabel) (d : Nat) (hl : l.inBody ∨ l = s.rx.label) :
      BodyStep s { s with rx := { s.rx with label := l, drainLeft := d } }

theorem State.bodyStep_cases {s : State} (h1 : s.rx.label ≠ .b1) : BodyStep s (s.bodyStep.getD s) := by
  have still : BodyStep s s := .moves s.rx.label s.rx.drainLeft (.inr rfl)
  cases hl : s.rx.label <;> cases hr : s.rx.slot <;> simp only [State.bodyStep, hl, hr, Option.getD_none]
  case b1.none | b1.some => contradiction
  case b2.some i =>
    cases hm : s.readToMemory (s.slot i).entry.dbase.toNat (s.slot i).entry.dcap.toNat with
    | none => exact still
    | some t =>
      obtain ⟨ha, rfl⟩ := State.readToMemory_eq_some hm
      obtain ⟨c, l, d, r, hc, hlab, h⟩ := State.bodyB3_eq { s with
        inbound := _, consumed := _, mem := _, history := _ } (s.slot i).entry
      simp only [Option.map_some, Option.getD_some]
      rw [h]
      exact .stores i _ _ c l d r hr (.inl ⟨hl, rfl, rfl⟩) ha hc hlab
  case b3.some i =>
    cases hm : s.readToMemory (s.slot i).entry.pbase.toNat (payloadRead (s.slot i).entry s.rx.rem) with
    | none => exact still
    | some t =>
      obtain ⟨ha, rfl⟩ := State.readToMemory_eq_some hm
      obtain ⟨c, l, d, hc, hlab, h⟩ := State.bodyB4_eq { s with
        inbound := _, consumed := _, mem := _, history := _, rx := { s.rx with rem := _ } }
      simp only [Option.map_some, Option.getD_some]
      rw [h]
      exact .stores i _ _ c l d _ hr (.inr ⟨hl, rfl, rfl⟩) ha hc hlab
  case d1.none | d1.some =>
    simp only [Option.getD_some, State.drainChunk]
    by_cases h0 : s.rx.drainLeft = 0
    · obtain ⟨l, hlab, h⟩ := State.bodyDone_eq { s with rx := { s.rx with drainLeft := 0 } }
      simp only [h0, if_true]
      rw [h]
      exact .moves l 0 (.inl hlab)
    · simp only [h0, if_false]
      split
      · obtain ⟨l, hlab, h⟩ := State.bodyDone_eq { s.transportRead (min s.rx.drainLeft s.cfg.scratchBytes) with
          rx := { s.rx with drainLeft := _, scratch := _ } }
        rw [h]
        exact .drains _ l _ hl rfl h0 hlab
      · exact .drains _ s.rx.label _ hl rfl h0 (.inl (by rw [hl]; rfl))
  all_goals exact still

/-! ## The handler -/

/-- One step of ON_NWP_IRQ. -/
inductive RxStep (s : State) : State → Prop where
  | enters (hl : s.rx.label = .h0) (he : s.irqEnabled = true) : RxStep s s.takeIrq
  | asks (hl : s.rx.label = .l1) :
      RxStep s { s.transportWrite .rx (bytes32 h2nCnysValue) with rx := { s.rx with label := .l2 } }
  /-- A read of LOCATE, with the updates that follow its return: the increment of tx_seq_num comes with label L11, and
  a SyncTimeout is counted. -/
  | locates (n : Nat) (x : RxState) (q : BitVec 8) (b : Bool) (c : Word) (hn : RxInv s → 0 < n)
      (hl : s.rx.label.reading = true ∧ s.rx.label ≠ .h2)
      (hq : x.label = .l11 ∧ s.rx.label ≠ .l11 ∧ q = s.txSeqNum + 1#8 ∧ c = s.cntSyncTimeout ∨
        x.label ≠ .l11 ∧ q = s.txSeqNum ∧ (c = s.cntSyncTimeout ∨ c = s.cntSyncTimeout + 1#32)) :
      RxStep s { s.transportRead n with rx := x, txSeqNum := q, syncTimeoutSticky := b, cntSyncTimeout := c }
  | resolves (n c : Word) (l : RxLabel) (d r : Nat) (hl : s.rx.label = .h2)
      (hc : n = s.cntNoMatch ∧ c = s.cntOverflow ∨ n = s.cntNoMatch + 1#32 ∧ c = s.cntOverflow ∨
        n = s.cntNoMatch ∧ c = s.cntOverflow + 1#32) (hlab : l.inBody) :
      RxStep s { s.popDraw with
        cntNoMatch := n, cntOverflow := c
        rx := { s.rx with
          label := l, drainLeft := d, rem := r, phase := .copyingBody, slot := s.resolveSlot s.rx.opcode } }
  | copies (t : State) (hl : s.rx.label = .b2 ∨ s.rx.label = .b3 ∨ s.rx.label = .d1) (ht : BodyStep s t) : RxStep s t
  | completes (hl : s.rx.label = .h4) : RxStep s s.handlerComplete
  | returns (hl : s.rx.label = .h5) : RxStep s s.returnFromIrq
  /-- The labels that no run rests at. -/
  | settles (hl : s.rx.label = .locOk ∨ s.rx.label = .h6 ∨ s.rx.label = .b1) : RxStep s s.settle
  | waits : RxStep s s

theorem State.handlerResolve_settle (s : State) : ∃ (n c : Word) (l : RxLabel) (d r : Nat),
    (n = s.cntNoMatch ∧ c = s.cntOverflow ∨ n = s.cntNoMatch + 1#32 ∧ c = s.cntOverflow ∨
      n = s.cntNoMatch ∧ c = s.cntOverflow + 1#32) ∧ l.inBody ∧
    s.handlerResolve.settle = { s.popDraw with
      cntNoMatch := n, cntOverflow := c
      rx := { s.rx with
        label := l, drainLeft := d, rem := r, phase := .copyingBody, slot := s.resolveSlot s.rx.opcode } } := by
  obtain ⟨n, c, l, d, r, hc, hlab, h⟩ := s.handlerResolve.bodyB1_eq
  exact ⟨n, c, l, d, r, hc, hlab, h⟩

/-- What follows LOCATE's return in the same step: rx_opcode and rx_len, or the SyncTimeout. -/
theorem LocateRead.settle_step {s t : State} (ht : LocateRead s t)
    (hl : s.rx.label.reading = true ∧ s.rx.label ≠ .h2) : RxStep s t.settle := by
  cases ht with
  | goesOn n l w a m hn hpos hlab =>
    obtain ⟨h11, hlab⟩ := hlab
    cases l <;> simp [RxLabel.reading] at hlab h11
    case h6 => exact .locates n _ s.txSeqNum true _ hn hl (.inr ⟨nofun, rfl, .inr rfl⟩)
    all_goals exact .locates n _ s.txSeqNum s.syncTimeoutSticky s.cntSyncTimeout hn hl (.inr ⟨nofun, rfl, .inl rfl⟩)
  | endsSkip n w hn hl11 =>
    exact .locates n _ _ s.syncTimeoutSticky s.cntSyncTimeout hn hl (.inl ⟨rfl, hl11, rfl, rfl⟩)

theorem State.locateStep_isSome {s : State} (hl : s.rx.label.reading = true) (h2 : s.rx.label ≠ .h2) :
    ∃ t, s.locateStep = some t := by
  cases h : s.rx.label <;> simp [h, RxLabel.reading] at hl h2 <;> exact ⟨_, by simp only [State.locateStep, h]; rfl⟩

/-- Inside LOCATE the handler's step is LOCATE's, with the updates that follow its return. -/
theorem execOnNwpIrq_locate {s t : State} (ht : s.locateStep = some t) : execOnNwpIrq s = .next t.settle := by
  cases h : s.rx.label <;> simp only [State.locateStep, h, reduceCtorEq] at ht <;>
    simp only [execOnNwpIrq, h, State.locateStep, ht, Option.getD_some]

theorem execOnNwpIrq_body {s : State} (hl : s.rx.label = .b2 ∨ s.rx.label = .b3 ∨ s.rx.label = .d1) :
    execOnNwpIrq s = .next (s.bodyStep.getD s) := by
  obtain h | h | h := hl <;> simp only [execOnNwpIrq, h]

theorem execOnNwpIrq_h2 {s : State} (hl : s.rx.label = .h2) : execOnNwpIrq s = .next s.handlerResolve.settle := by
  simp only [execOnNwpIrq, hl]

theorem execOnNwpIrq_cases {s u : State} (h : execOnNwpIrq s = .next u) : RxStep s u := by
  by_cases hloc : s.rx.label.reading = true ∧ s.rx.label ≠ .h2
  · obtain ⟨t, ht⟩ := State.locateStep_isSome hloc.1 hloc.2
    rw [execOnNwpIrq_locate ht] at h
    cases h
    by_cases h1 : s.rx.label = .l1
    · simp only [State.locateStep, h1] at ht
      cases ht
      exact .asks h1
    · exact (State.locateStep_read ht h1).settle_step hloc
  · cases hl : s.rx.label <;> simp only [execOnNwpIrq, hl] at h <;> simp [hl, RxLabel.reading] at hloc
    case h0 =>
      split at h <;> cases h
      · next he => exact .enters hl he
      · exact .waits
    case h2 =>
      cases h
      obtain ⟨n, c, l, d, r, hc, hlab, he⟩ := s.handlerResolve_settle
      rw [he]
      exact .resolves n c l d r hl hc hlab
    case b2 | b3 | d1 => cases h; exact .copies _ (by simp [hl]) (State.bodyStep_cases (by simp [hl]))
    case h4 => cases h; exact .completes hl
    case h5 => cases h; exact .returns hl
    all_goals cases h; exact .settles (by simp [hl])

end Sys2Proof.Machine

/-! What one step of a port, of the sequencer and of the host does to the whole state, and one step of any agent. -/

namespace Sys2Proof.Machine

/-! ## Updates of one port and of one slot -/

@[simp] theorem State.setPort_setPort (s : State) (p : Port) (x y : PortState) :
    (s.setPort p x).setPort p y = s.setPort p y := by
  simp [State.setPort]

@[simp] theorem State.setPort_port (s : State) (p : Port) : s.setPort p (s.port p) = s := by
  simp [State.setPort, State.port]

theorem State.freeSlot_eq_some {s : State} {i : SlotIx} (hi : (s.slot i).valid = false)
    (hlt : ∀ j, j < i → (s.slot j).valid = true) : s.freeSlot = some i := by
  simp only [State.freeSlot, SlotIx.all, List.find?_cons, List.find?_nil]
  fin_cases i
  · simp only [Fin.zero_eta] at hi
    simp [hi]
  · have h0 := hlt 0 (by decide)
    simp only [Fin.mk_one] at hi
    simp [h0, hi]

theorem State.freeSlot_eq_none {s : State} (h : ∀ i : SlotIx, (s.slot i).valid = true) : s.freeSlot = none := by
  simp [State.freeSlot, SlotIx.all, h]

theorem State.insertRequest_of_free {s : State} {i : SlotIx} (h : s.freeSlot = some i) (p : Port) (e : Entry) :
    s.insertRequest p e = some ((s.setSlot i { valid := true, entry := e, owner := p }).setPort p
      { s.port p with respDone := false }) := by
  simp only [State.insertRequest, h]
  rfl

theorem State.insertRequest_of_full {s : State} (h : s.freeSlot = none) (p : Port) (e : Entry) :
    s.insertRequest p e = none := by
  simp only [State.insertRequest, h]

/-! ## Events that carry no inbound byte -/

/-- A list of events that moves no inbound byte and makes no call of zero bytes. -/
def QuietEvents (es : List Event) : Prop := inboundBytesOf es = [] ∧ ∀ e, e ∈ es → e.nonempty = true

theorem QuietEvents.nil : QuietEvents [] := ⟨rfl, by simp⟩

theorem QuietEvents.append {es fs : List Event} (he : QuietEvents es) (hf : QuietEvents fs) : QuietEvents (es ++ fs) := by
  refine ⟨?_, fun e hmem => ?_⟩
  · have hes := he.1
    have hfs := hf.1
    simp only [inboundBytesOf] at hes hfs ⊢
    rw [List.flatMap_append, hes, hfs, List.append_nil]
  · exact (List.mem_append.mp hmem).elim (he.2 e) (hf.2 e)

theorem QuietEvents.tx (a : Agent) {bytes : List Byte} (h : bytes ≠ []) : QuietEvents [.tx a bytes] :=
  ⟨rfl, by simpa [Event.nonempty] using h⟩

/-! ## SEND_COMMAND -/

theorem Segment.sent_iff {g : Segment} : g.sent = true ↔ g.present = true ∧ 0 < g.len.toNat := by
  have hlen : g.len ≠ 0#16 ↔ 0 < g.len.toNat := by
    rw [Nat.pos_iff_ne_zero, ne_eq, ne_eq, ← BitVec.toNat_inj]
    rfl
  simp [Segment.sent, ← hlen]

/-- A write of a port leaves it at a label of WRITE_COMMAND, at S4 where no response is expected, or in WAITING where
one is. -/
theorem PortState.afterWrite_eq {x : PortState} (r : Request) {l : WriteLabel} (hp : x.phase = .writing)
    (hl : l ≠ .s4) : ∃ ph l', x.afterWrite r l = { x with phase := ph, wlabel := l' } ∧
      (ph = .writing ∧ (l' = .s4 → r.exp = false) ∨ ph = .waiting ∧ r.exp = true) := by
  have at_ (l' : WriteLabel) (h' : l' ≠ .s4) : ∃ ph l'', { x with wlabel := l' } = { x with phase := ph, wlabel := l'' } ∧
      (ph = .writing ∧ (l'' = .s4 → r.exp = false) ∨ ph = .waiting ∧ r.exp = true) :=
    ⟨.writing, l', by rw [← hp], .inl ⟨rfl, fun h => absurd h h'⟩⟩
  have done : ∃ ph l', x.writesDone r.exp = { x with phase := ph, wlabel := l' } ∧
      (ph = .writing ∧ (l' = .s4 → r.exp = false) ∨ ph = .waiting ∧ r.exp = true) := by
    cases he : r.exp with
    | true => exact ⟨.waiting, x.wlabel, rfl, .inr ⟨rfl, rfl⟩⟩
    | false => exact ⟨.writing, .s4, by rw [← hp]; rfl, .inl ⟨rfl, fun _ => rfl⟩⟩
  cases l with
  | w1 => exact at_ .w2 (by decide)
  | w2 =>
    simp only [PortState.afterWrite]
    split
    · exact at_ .w3 (by decide)
    · split
      · exact at_ .w4 (by decide)
      · split
        · exact at_ .w5 (by decide)
        · exact done
  | w3 =>
    simp only [PortState.afterWrite]
    split
    · exact at_ .w4 (by decide)
    · split
      · exact at_ .w5 (by decide)
      · exact done
  | w4 =>
    simp only [PortState.afterWrite]
    split
    · exact at_ .w5 (by decide)
    · exact done
  | w5 => exact done
  | s4 => contradiction

/-- One step of SEND_COMMAND for a request (44_dispatcher.md rule R321). -/
inductive PortStep (s : State) (p : Port) (r : Request) : State → Prop where
  | registers (i : SlotIx) (hp : (s.port p).phase = .registering) (hi : s.freeSlot = some i) :
      PortStep s p r ((s.setSlot i { valid := true, entry := r.entry, owner := p }).setPort p
        { s.port p with respDone := false, phase := .writing, wlabel := .w1 })
  | writes (ph : Phase) (l : WriteLabel) (es : List Event) (hp : (s.port p).phase = .writing) (hes : QuietEvents es)
      (hl : ph = .writing ∧ (l = .s4 → r.exp = false) ∨ ph = .waiting ∧ r.exp = true) :
      PortStep s p r { s.setPort p { s.port p with phase := ph, wlabel := l } with history := s.history ++ es }
  | completes (hp : (s.port p).phase = .writing ∧ (s.port p).wlabel = .s4 ∨
        (s.port p).phase = .waiting ∧ (s.port p).respDone = true) : PortStep s p r (s.completePort p .ok)
  | waits : PortStep s p r s

theorem portStep_wrote {s : State} {p : Port} {r : Request} {l : WriteLabel} (es : List Event)
    (hp : (s.port p).phase = .writing) (hl : l ≠ .s4) (hes : QuietEvents es) :
    PortStep s p r (({ s with history := s.history ++ es } : State).wrote p r l) := by
  obtain ⟨ph, l', heq, hpos⟩ := PortState.afterWrite_eq r hp hl
  have hw : ({ s with history := s.history ++ es } : State).wrote p r l =
      { s.setPort p ((s.port p).afterWrite r l) with history := s.history ++ es } := rfl
  rw [hw, heq]
  exact .writes ph l' es hp hes hpos

theorem State.writeSegment_cases {s : State} {p : Port} {r : Request} {l : WriteLabel}
    (hp : (s.port p).phase = .writing) (hl : l ≠ .s4) : PortStep s p r (s.writeSegment p r l) := by
  unfold State.writeSegment
  dsimp only
  split
  · next hg =>
    split
    · next t ht =>
      obtain ⟨-, rfl⟩ := State.sendFromMemory_eq_some ht
      rw [List.append_assoc]
      refine portStep_wrote _ hp hl (QuietEvents.append ⟨rfl, by simp [Event.nonempty]⟩ (.tx _ fun h => ?_))
      have hlen := congrArg List.length h
      have hpos := (Segment.sent_iff.mp hg).2
      simp only [List.length_append, Memory.length_read, List.length_nil] at hlen
      omega
    · exact .waits
  · have h := portStep_wrote (r := r) [] hp hl .nil
    rwa [List.append_nil] at h

/-- W1 with a length that fits the header, and the labels after it, each have a next state. -/
theorem State.writeStep_cases {s u : State} {p : Port} {r : Request} (hp : (s.port p).phase = .writing)
    (h : s.writeStep p r = some (.next u)) : PortStep s p r u := by
  cases hl : (s.port p).wlabel <;> simp only [State.writeStep, hl, reduceCtorEq] at h
  case w1 =>
    split at h <;> cases h
    exact portStep_wrote _ hp (by decide) (.tx _ (by simp [bytes32]))
  case w2 =>
    cases h
    exact portStep_wrote _ hp (by decide) (.tx _ (by simp [Request.headerBytes, bytes16]))
  case w3 | w4 | w5 =>
    cases h
    exact State.writeSegment_cases hp (by decide)

theorem State.sendRegister_of_free {s : State} {i : SlotIx} (h : s.freeSlot = some i) (p : Port) (r : Request) :
    s.sendRegister p r = (s.setSlot i { valid := true, entry := r.entry, owner := p }).setPort p
      { s.port p with respDone := false, phase := .writing, wlabel := .w1 } := by
  simp only [State.sendRegister, State.insertRequest_of_free h, State.port_setPort_self, State.setPort_setPort]

theorem State.sendRegister_of_full {s : State} (h : s.freeSlot = none) (p : Port) (r : Request) :
    s.sendRegister p r = s := by
  simp only [State.sendRegister, State.insertRequest_of_full h]

theorem State.writeStep_eq_none {s : State} {p : Port} {r : Request} :
    s.writeStep p r = none ↔ (s.port p).wlabel = .s4 := by
  cases hl : (s.port p).wlabel <;> simp only [State.writeStep, hl, reduceCtorEq]
  case w1 => split <;> simp

theorem State.sendStep_cases {s u : State} {p : Port} {r : Request} (h : s.sendStep p r = .next u) :
    PortStep s p r u := by
  cases hp : (s.port p).phase <;> simp only [State.sendStep, hp] at h
  case idle | power => cases h; exact .waits
  case registering =>
    cases h
    cases hf : s.freeSlot with
    | none => rw [State.sendRegister_of_full hf]; exact .waits
    | some i => rw [State.sendRegister_of_free hf]; exact .registers i hp hf
  case writing =>
    cases hw : s.writeStep p r <;> rw [hw] at h <;> cases h
    case none => exact .completes (.inl ⟨hp, State.writeStep_eq_none.mp hw⟩)
    case some => exact State.writeStep_cases hp hw
  case waiting =>
    split at h <;> cases h
    · next hd => exact .completes (.inr ⟨hp, hd⟩)
    · exact .waits

/-! ## SUBMIT -/

theorem State.submit_busy {s : State} {p : Port} (v : Word) (hb : (s.port p).busy = true) :
    s.submit p v = s.setPort p { s.port p with rsv := ctrlRsv v, staging := s.stagedWith p v } := by
  rw [State.submit, if_pos hb]
  rfl

theorem State.submit_idle {s : State} {p : Port} (v : Word) (hb : (s.port p).busy = false) :
    s.submit p v = (s.setPort p ((s.port p).storeCtrl v)).acceptWord p v := by
  simp only [State.submit, hb, Bool.false_eq_true, if_false]

theorem State.submit_send {s : State} {p : Port} {v : Word} {e : Bool} {o : Half} (hb : (s.port p).busy = false)
    (hd : decodeCtrlWord v = .sendCommand e o) :
    s.submit p v = s.setPort p { s.port p with
      rsv := ctrlRsv v, staging := s.stagedWith p v, req := s.stagedWith p v, done := false, result := .ok, busy := true
      phase := if e then .registering else .writing, wlabel := .w1 } := by
  simp only [State.submit_idle v hb, State.acceptWord, hd, State.port_setPort_self, State.setPort_setPort]
  rfl

theorem State.submit_power {s : State} {p : Port} {v : Word} (hb : (s.port p).busy = false)
    (hd : decodeCtrlWord v = .powerOn ∨ decodeCtrlWord v = .powerOff) :
    s.submit p v = s.setPort p { s.port p with
      rsv := ctrlRsv v, staging := s.stagedWith p v, req := s.stagedWith p v, done := false, result := .ok, busy := true
      phase := .power } := by
  obtain hd | hd := hd <;>
    simp only [State.submit_idle v hb, State.acceptWord, hd, State.port_setPort_self, State.setPort_setPort] <;> rfl

theorem State.submit_illegal {s : State} {p : Port} {v : Word} (hb : (s.port p).busy = false)
    (hd : decodeCtrlWord v = .illegal v) :
    s.submit p v = s.setPort p { s.port p with
      rsv := ctrlRsv v, staging := s.stagedWith p v, req := s.stagedWith p v, done := true, result := .illegalOp
      busy := false, phase := .idle } := by
  simp only [State.submit_idle v hb, State.acceptWord, hd, State.acceptIllegal, State.completePort,
    State.port_setPort_self, State.setPort_setPort]
  rfl

/-- A submission as one update of its port, by what the word is (44_dispatcher.md rules R320, R324 and R325). -/
inductive Submission (s : State) (p : Port) (v : Word) : PortState → Prop where
  | stored (hb : (s.port p).busy = true) :
      Submission s p v { s.port p with rsv := ctrlRsv v, staging := s.stagedWith p v }
  | sends (e : Bool) (hb : (s.port p).busy = false) (hop : ctrlOp v = 1#4) (he : ctrlExp v = e) :
      Submission s p v { s.port p with
        rsv := ctrlRsv v, staging := s.stagedWith p v, req := s.stagedWith p v, done := false, result := .ok
        busy := true, phase := if e then .registering else .writing, wlabel := .w1 }
  | powers (hb : (s.port p).busy = false) (hop : ctrlOp v = 2#4 ∨ ctrlOp v = 3#4) :
      Submission s p v { s.port p with
        rsv := ctrlRsv v, staging := s.stagedWith p v, req := s.stagedWith p v, done := false, result := .ok
        busy := true, phase := .power }
  | refuses (hb : (s.port p).busy = false) :
      Submission s p v { s.port p with
        rsv := ctrlRsv v, staging := s.stagedWith p v, req := s.stagedWith p v, done := true, result := .illegalOp
        busy := false, phase := .idle }

theorem State.submit_cases (s : State) (p : Port) (v : Word) : ∃ x, Submission s p v x ∧ s.submit p v = s.setPort p x := by
  cases hb : (s.port p).busy with
  | true => exact ⟨_, .stored hb, State.submit_busy v hb⟩
  | false =>
    obtain ⟨-, hd⟩ | ⟨-, hop, -, hd⟩ | ⟨-, hop, -, hd⟩ | ⟨-, hop, -, hd⟩ := decodeCtrlWord_cases v
    · exact ⟨_, .refuses hb, State.submit_illegal hb hd⟩
    · exact ⟨_, .sends _ hb hop rfl, State.submit_send hb hd⟩
    · exact ⟨_, .powers hb (.inl hop), State.submit_power hb (.inl hd)⟩
    · exact ⟨_, .powers hb (.inr hop), State.submit_power hb (.inr hd)⟩

/-! ## Register writes -/

/-- A register write that is no submission: a staging register, DONE, or the sticky bit. -/
inductive RegisterWrite (s : State) : State → Prop where
  | stages (p : Port) (r : Request) : RegisterWrite s (s.setPort p { s.port p with staging := r })
  | clearsDone (p : Port) : RegisterWrite s (s.setPort p { s.port p with done := false })
  | clearsSticky : RegisterWrite s { s with syncTimeoutSticky := false }
  | ignored : RegisterWrite s s

theorem State.writeReg_cases (s : State) (r : Reg) (v : Word) : RegisterWrite s (s.writeReg r v) := by
  cases r with
  | statusClr p =>
    simp only [State.writeReg]
    split
    · exact .clearsDone p
    · exact .ignored
  | gstatus =>
    simp only [State.writeReg]
    split
    · exact .clearsSticky
    · exact .ignored
  | expOpcode p | seg0Base p | seg0Len p | seg1Base p | seg1Len p | seg2Base p | seg2Len p | rdescBase p | rdescCap p
  | rpayBase p | rpayCap p => exact .stages p _
  | ctrl p | status p | txSeq | cntSyncTimeout | cntNoMatch | cntOverflow | pwrOut | pwrIn | ptSlot i | reserved =>
    exact .ignored

/-! ## The sequencer -/

/-- One step of the sequencer (46_power_sequencer.md rules R400 and R401). -/
inductive SequencerStep (s : State) : State → Prop where
  /-- The acceptance of port q: PON1 or POF1 with the draw. -/
  | accepts (q : Port) (x : PowerState) (e : Event) (hl : s.pwr.step = .idle) (hq : s.drawnPort = some q)
      (hx : (s.port q).req.op = 2#4 ∧
          x = { s.pwr with state := .poweringOn, stop := false, port := q, step := .pon2 } ∨
        (s.port q).req.op = 3#4 ∧ x = { s.pwr with state := .poweringOff, port := q, step := .pof2 })
      (he : QuietEvents [e]) :
      SequencerStep s { s.popDraw with pwr := x, history := s.history ++ [e] }
  /-- A label that drives outputs, the mask or nothing but the position. -/
  | signals (x : PowerState) (b : Bool) (es : List Event) (hx : PowerInv s → PowerInv { s with pwr := x })
      (hl : s.pwr.step ≠ .pon6 ∧ x.step ≠ .pon6) (hes : QuietEvents es)
      (hb : b = s.irqMask ∨ s.pwr.step = .pon4 ∧ b = false ∨ s.pwr.step = .pof5 ∧ b = true) :
      SequencerStep s { s with pwr := x, irqMask := b, history := s.history ++ es }
  | registers (i : SlotIx) (hl : s.pwr.step = .pon5) (hi : s.freeSlot = some i) :
      SequencerStep s { (s.setSlot i { valid := true, entry := initCompleteEntry s.cfg, owner := s.pwr.port }).setPort
        s.pwr.port { s.port s.pwr.port with respDone := false } with pwr := { s.pwr with step := .pon6 } }
  | completes (st : PseqState) (es : List Event) (hes : QuietEvents es)
      (hl : s.pwr.step = .pon6 ∧ (s.port s.pwr.port).respDone = true ∧ st = .on ∨ s.pwr.step = .pof8 ∧ st = .off) :
      SequencerStep s { s.completePort s.pwr.port .ok with
        pwr := { s.pwr with state := st, step := .idle }, history := s.history ++ es }
  | waits : SequencerStep s s

theorem quiet_level (l : Level) (b : Bool) : QuietEvents [.level l b] := ⟨rfl, by simp [Event.nonempty]⟩

theorem quiet_pulse (p : Pulse) : QuietEvents [.pulse p] := ⟨rfl, by simp [Event.nonempty]⟩

/-- The invariant across a move of the sequencer within one operation: pseq_state, pseq_port and WAKE_CONFIG stay. -/
theorem PowerInv.within {s : State} (h : PowerInv s) {x : PowerState} (hstate : x.state = s.pwr.state)
    (hport : x.port = s.pwr.port) (hwake : x.wakeConfig = s.pwr.wakeConfig)
    (hl : s.pwr.step.poweringOn = true ∧ x.step.poweringOn = true ∧ x.stop = s.pwr.stop ∨
      s.pwr.step.poweringOff = true ∧ x.step.poweringOff = true ∧ (x.step = .pof8 → x.stop = true)) :
    PowerInv { s with pwr := x } := by
  obtain ⟨hs, hx, hstop⟩ | ⟨hs, hx, hstop⟩ := hl
  · have hon := h.on_steps hs
    have hsx : x.state = .poweringOn := hstate.trans hon.1
    refine ⟨fun hi => ?_, fun _ => ⟨hsx, ?_⟩, fun hoff => ?_, ?_, ?_, fun _ => ?_, ?_⟩
    · simp only at hi
      simp [hi, PseqStep.poweringOn] at hx
    · rw [hport]; exact hon.2
    · simp only at hoff
      cases hstep : x.step <;> simp [hstep, PseqStep.poweringOn, PseqStep.poweringOff] at hx hoff
    · constructor <;> intro hi <;> simp only at hi <;> simp [hi, PseqStep.poweringOn] at hx
    · rintro (hi | hi) <;> simp only at hi
      · simp [hsx] at hi
      · simp [hi, PseqStep.poweringOn] at hx
    · exact hstop.trans (h.running (.inl hon.1))
    · rw [hwake]; exact h.wake_width
  · have hoff := h.off_steps hs
    have hsx : x.state = .poweringOff := hstate.trans hoff.1
    refine ⟨fun hi => ?_, fun hon => ?_, fun _ => ⟨hsx, ?_⟩, ?_, ?_, ?_, ?_⟩
    · simp only at hi
      simp [hi, PseqStep.poweringOff] at hx
    · simp only at hon
      cases hstep : x.step <;> simp [hstep, PseqStep.poweringOn, PseqStep.poweringOff] at hx hon
    · rw [hport]; exact hoff.2
    · constructor <;> intro hi <;> simp only at hi <;> simp [hi, PseqStep.poweringOff] at hx
    · rintro (hi | hi) <;> simp only at hi
      · simp [hsx] at hi
      · exact hstop hi
    · rintro (hi | hi) <;> simp [hsx] at hi
    · rw [hwake]; exact h.wake_width

theorem execPowerOn_step {s u : State} (hinv : PowerInv s) (h : execPowerOn s = .next u) : SequencerStep s u := by
  cases hl : s.pwr.step <;> simp only [execPowerOn, hl] at h
  case idle =>
    split at h
    · next q hq =>
      split at h <;> cases h
      · next hop => exact .accepts q _ _ hl hq (.inl ⟨hop, rfl⟩) (quiet_level _ _)
      · exact .waits
    · cases h; exact .waits
  case pon1 => exact absurd hl hinv.at_rest.1
  case pon2 =>
    cases h
    exact .signals _ s.irqMask _ (fun g => g.within rfl rfl rfl (.inl ⟨by simp [hl, PseqStep.poweringOn], rfl, rfl⟩))
      (by simp [hl]) (quiet_pulse _) (.inl rfl)
  case pon3 =>
    cases h
    exact .signals _ s.irqMask _ (fun g => g.within rfl rfl rfl (.inl ⟨by simp [hl, PseqStep.poweringOn], rfl, rfl⟩))
      (by simp [hl]) (quiet_pulse _) (.inl rfl)
  case pon4 =>
    cases h
    exact .signals _ false _ (fun g => g.within rfl rfl rfl (.inl ⟨by simp [hl, PseqStep.poweringOn], rfl, rfl⟩))
      (by simp [hl]) (quiet_level _ _) (.inr (.inl ⟨hl, rfl⟩))
  case pon5 =>
    cases hf : s.freeSlot with
    | none => rw [State.insertRequest_of_full hf] at h; cases h; exact .waits
    | some i => rw [State.insertRequest_of_free hf] at h; cases h; exact .registers i hl hf
  case pon6 =>
    split at h <;> cases h
    · next hd =>
      have hstep := SequencerStep.completes (s := s) .on [] .nil (.inl ⟨hl, hd, rfl⟩)
      rwa [List.append_nil] at hstep
    · exact .waits
  all_goals cases h; exact .waits

/-- POF2 and POF3 only move the position on. -/
theorem sequencerStep_pseqTo {s : State} (l : PseqStep) (hs : s.pwr.step.poweringOff = true)
    (hl : l.poweringOff = true) (h8 : l ≠ .pof8) : SequencerStep s (s.pseqTo l) := by
  have hstep := SequencerStep.signals (s := s) { s.pwr with step := l } s.irqMask []
    (fun g => g.within rfl rfl rfl (.inr ⟨hs, hl, fun h => absurd h h8⟩))
    ⟨fun h => by simp [h, PseqStep.poweringOff] at hs, fun h => by simp only at h; simp [h, PseqStep.poweringOff] at hl⟩
    .nil (.inl rfl)
  rwa [List.append_nil] at hstep

theorem execPowerOff_step {s u : State} (hinv : PowerInv s) (h : execPowerOff s = .next u) : SequencerStep s u := by
  cases hl : s.pwr.step <;> simp only [execPowerOff, hl] at h
  case idle =>
    split at h
    · next q hq =>
      split at h <;> cases h
      · next hop => exact .accepts q _ _ hl hq (.inr ⟨hop, rfl⟩) (quiet_pulse _)
      · exact .waits
    · cases h; exact .waits
  case pof1 => exact absurd hl hinv.at_rest.2
  case pof2 =>
    split at h <;> cases h
    · exact sequencerStep_pseqTo .pof3 (by simp [hl, PseqStep.poweringOff]) rfl (by decide)
    · exact .waits
  case pof3 =>
    split at h <;> cases h
    · exact sequencerStep_pseqTo .pof4 (by simp [hl, PseqStep.poweringOff]) rfl (by decide)
    · exact .waits
  case pof4 =>
    cases h
    exact .signals _ s.irqMask _ (fun g => g.within rfl rfl rfl (.inr ⟨by simp [hl, PseqStep.poweringOff], rfl, by simp⟩))
      (by simp [hl]) (quiet_pulse _) (.inl rfl)
  case pof5 =>
    cases h
    exact .signals _ true _ (fun g => g.within rfl rfl rfl (.inr ⟨by simp [hl, PseqStep.poweringOff], rfl, by simp⟩))
      (by simp [hl]) (quiet_level _ _) (.inr (.inr ⟨hl, rfl⟩))
  case pof6 | pof7 =>
    cases h
    exact .signals _ s.irqMask _ (fun g => g.within rfl rfl rfl (.inr ⟨by simp [hl, PseqStep.poweringOff], rfl, by simp⟩))
      (by simp [hl]) (quiet_level _ _) (.inl rfl)
  case pof8 =>
    cases h
    exact .completes .off [.settle] ⟨rfl, by simp [Event.nonempty]⟩ (.inr ⟨hl, rfl⟩)
  all_goals cases h; exact .waits

end Sys2Proof.Machine

/-! One step of any agent from a state that meets the invariant, as one of the cases above; and the invariant kept by
each of them (20_memory.md rule R95). -/

namespace Sys2Proof.Machine

/-! ## The operation that a move runs -/

theorem State.ctrlWritePort_none {s : State} (h : ∀ a v, s.nextMove ≠ .host (.write a .word v)) :
    s.ctrlWritePort = none := by
  cases hc : s.ctrlWritePort with
  | none => rfl
  | some p =>
    obtain ⟨-, a, v, hm, -⟩ := State.ctrlWritePort_spec hc
    exact absurd hm (h a v)

theorem execIllegal_none {s : State} (h : s.ctrlWritePort = none) (w : Word) : execIllegal w s = .next s := by
  simp only [execIllegal, h]

theorem execSendCommand_port {s : State} {p : Port} (hm : s.nextMove = .port p) (hp : s.hasPort p = true) (e : Bool)
    (o : Half) : execSendCommand e o s = s.sendStep p { (s.port p).req with exp := e, cmdOpcode := o } := by
  simp only [execSendCommand, hm, hp, if_true]

theorem execSendCommand_other {s : State} (hm : ∀ p, s.nextMove ≠ .port p) (e : Bool) (o : Half) :
    execSendCommand e o s = .next s := by
  cases h : s.nextMove with
  | port p => exact absurd h (hm p)
  | _ => simp only [execSendCommand, h]

theorem Request.decode_word_of_send {r : Request} (h : r.op = 1#4) :
    decodeCtrlWord r.word = .sendCommand r.exp r.cmdOpcode := by
  rw [Request.word, h, decodeCtrlWord_send]

theorem State.Inv.op_of_sending {s : State} (h : s.Inv) {p : Port}
    (hp : (s.port p).phase = .registering ∨ (s.port p).phase = .writing ∨ (s.port p).phase = .waiting) :
    (s.port p).req.op = 1#4 := by
  obtain hp | hp | hp := hp
  · exact ((h.ports p).registering hp).1
  · exact (h.ports p).writing hp
  · exact ((h.ports p).waiting hp).1

/-- A port that has an operation runs SEND_COMMAND, for the request it holds. -/
theorem State.Inv.exec_portOperation {s : State} (h : s.Inv) {p : Port} {i : Instr} (hm : s.nextMove = .port p)
    (hi : s.portOperation p = some i) : s.hasPort p = true ∧ exec i s = s.sendStep p (s.port p).req := by
  unfold State.portOperation at hi
  split at hi
  · next hp =>
    refine ⟨hp, ?_⟩
    split at hi <;> cases hi <;> rename_i hph <;>
      rw [Request.decode_word_of_send (h.op_of_sending (by simp [hph]))] <;> exact execSendCommand_port hm hp _ _
  · cases hi

theorem State.exec_sequencerOperation {s u : State} (hinv : PowerInv s) {i : Instr} (hm : s.nextMove = .sequencer)
    (hi : s.sequencerOperation = some i) (hu : exec i s = .next u) : SequencerStep s u := by
  obtain ⟨w, rfl⟩ := State.sequencerOperation_eq_decode hi
  obtain ⟨-, hd⟩ | ⟨-, -, -, hd⟩ | ⟨-, -, -, hd⟩ | ⟨-, -, -, hd⟩ := decodeCtrlWord_cases w <;> rw [hd] at hu
  · have hs : execIllegal w s = .next u := hu
    rw [execIllegal_none (State.ctrlWritePort_none (by simp [hm]))] at hs
    cases hs
    exact .waits
  · have hs : execSendCommand (ctrlExp w) (ctrlCmdOpcode w) s = .next u := hu
    rw [execSendCommand_other (by simp [hm])] at hs
    cases hs
    exact .waits
  · exact execPowerOn_step hinv hu
  · exact execPowerOff_step hinv hu

/-- A CTRL write of any word is its submission. -/
theorem exec_ctrlWriteOperation {s : State} {p : Port} (hc : s.ctrlWritePort = some p) (v : Word) :
    exec (ctrlWriteOperation p v) s = .next (s.submit p v) := by
  have hp : s.hasPort p = true := (State.ctrlWritePort_spec hc).1
  have hsubmit : exec (.submit p v) s = .next (s.submit p v) := if_pos hp
  obtain ⟨hi, hd⟩ | ⟨-, -, -, hd⟩ | ⟨-, -, -, hd⟩ | ⟨-, -, -, hd⟩ := decodeCtrlWord_cases v <;>
    simp only [ctrlWriteOperation, hd]
  · exact illegal_eq_submit hc hi
  all_goals exact hsubmit

/-! ## One step of any agent -/

/-- What the agent whose move is next does, before the move's own event is recorded. -/
inductive AgentStep (s : State) : State → Prop where
  | port (p : Port) (u : State) (hm : s.nextMove = .port p) (hp : s.hasPort p = true)
      (he : s.sendStep p (s.port p).req = .next u) : AgentStep s u
  | rx (u : State) (hm : s.nextMove = .rx) (he : execOnNwpIrq s = .next u) : AgentStep s u
  | sequencer (u : State) (hm : s.nextMove = .sequencer) (h : SequencerStep s u) : AgentStep s u
  | submits (p : Port) (a v : Word) (hm : s.nextMove = .host (.write a .word v)) (hp : s.hasPort p = true)
      (ha : a.toNat = s.cfg.base.toNat + 0x40 * p.val) : AgentStep s (s.submit p v)
  | writesRegister (a v : Word) (r : Reg) (hm : s.nextMove = .host (.write a .word v)) : AgentStep s (s.writeReg r v)
  | stores (a : Word) (w : Width) (v : Word) (hm : s.nextMove = .host (.write a w v))
      (hb : a.toNat + w.bytes ≤ Memory.size) :
      AgentStep s { s with mem := s.mem.write a.toNat (hostBytes w v) }
  | environment (e : EnvMove) (hm : s.nextMove = .env e) : AgentStep s (s.envStep e)
  /-- A host read, or an agent with no operation in progress. -/
  | nothing (hm : s.nextMove ≠ .rx) : AgentStep s s

theorem target_register {c : Params} {a : Word} {w : Width} {r : Reg} (h : target c a w = .register r) : w = .word := by
  unfold target at h
  dsimp only at h
  split at h
  · split at h
    · next hw => exact hw.1
    · cases h
  · split at h <;> cases h

theorem target_memory {c : Params} {a : Word} {w : Width} (h : target c a w = .memory) :
    a.toNat + w.bytes ≤ Memory.size := by
  unfold target at h
  dsimp only at h
  split at h
  · split at h <;> cases h
  · split at h
    · assumption
    · cases h

theorem State.hostStep_cases {s u : State} {h : HostMove} (hm : s.nextMove = .host h) (hu : s.hostStep h = .next u) :
    AgentStep s u := by
  have hrx : s.nextMove ≠ .rx := by simp [hm]
  cases h with
  | read addr w =>
    simp only [State.hostStep] at hu
    split at hu <;> cases hu <;> exact .nothing hrx
  | write addr w v =>
    simp only [State.hostStep] at hu
    split at hu <;> cases hu
    · next r ht =>
      obtain rfl := target_register ht
      exact .writesRegister addr v r hm
    · next ht => exact .stores addr w v hm (target_memory ht)

/-- Every step from a state that meets the invariant. -/
theorem step_cases {s t : State} (hinv : s.Inv) (h : step s = .next t) : ∃ u, t = s.finish u ∧ AgentStep s u := by
  obtain ⟨u, rfl, hu⟩ := step_next h
  refine ⟨u, rfl, ?_⟩
  cases hm : s.nextMove with
  | port p =>
    simp only [State.fetch, State.plainMove, hm] at hu
    obtain ⟨i, hi, hu⟩ | ⟨-, hu⟩ := hu
    · obtain ⟨hp, he⟩ := hinv.exec_portOperation hm hi
      rw [he] at hu
      exact .port p u hm hp hu
    · cases hu; exact .nothing (by simp [hm])
  | rx =>
    simp only [State.fetch, State.plainMove, hm, reduceCtorEq, false_and, or_false] at hu
    obtain ⟨i, hi, hu⟩ := hu
    cases hi
    exact .rx u hm hu
  | sequencer =>
    simp only [State.fetch, State.plainMove, hm] at hu
    obtain ⟨i, hi, hu⟩ | ⟨-, hu⟩ := hu
    · exact .sequencer u hm (State.exec_sequencerOperation hinv.power hm hi hu)
    · cases hu; exact .nothing (by simp [hm])
  | host m =>
    obtain ⟨i, hi, hu⟩ | ⟨-, hu⟩ := hu
    · cases m with
      | read a w => simp [State.fetch, hm] at hi
      | write a w v =>
        simp only [State.fetch, hm] at hi
        obtain ⟨p, hc, rfl⟩ := Option.map_eq_some_iff.mp hi
        rw [exec_ctrlWriteOperation hc] at hu
        cases hu
        obtain ⟨hp, a', v', hm', ha⟩ := State.ctrlWritePort_spec hc
        rw [hm'] at hm
        cases hm
        exact .submits p a v hm' hp ha
    · simp only [State.plainMove, hm] at hu
      exact State.hostStep_cases hm hu
  | env e =>
    simp only [State.fetch, State.plainMove, hm, reduceCtorEq, false_and, exists_false, false_or, true_and] at hu
    cases hu
    exact .environment e hm

/-! ## The invariant across updates of the table, of the sequencer and of the RX engine -/

/-- A free slot is given to a port that awaits its response and owns no other. -/
theorem State.Inv.setSlot {s : State} (h : s.Inv) {i : SlotIx} (hfree : (s.slot i).valid = false) {p : Port} (e : Entry)
    (hp : s.hasPort p = true) (haw : s.awaits p) (hdone : (s.port p).respDone = false)
    (hown : ∀ j, (s.slot j).valid = true → (s.slot j).owner ≠ p) :
    (s.setSlot i { valid := true, entry := e, owner := p }).Inv := by
  have hne {j : SlotIx} (hv : (s.slot j).valid = true) : i ≠ j := by
    rintro rfl
    simp [hfree] at hv
  refine ⟨h.params, h.memory, h.ports, fun j => ?_, ?_, ?_⟩
  · by_cases hij : i = j
    · subst hij
      refine ⟨by simp, fun _ => by simpa using hp, fun _ => by rw [State.slot_setSlot_self]; exact haw,
        fun _ => by simpa using hdone, ?_⟩
      intro k _ hvk hok
      by_contra hik
      rw [State.slot_setSlot_ne _ _ hik] at hvk hok
      rw [State.slot_setSlot_self] at hok
      exact hown k hvk hok.symm
    · have hj := h.slots j
      have hsame : (s.setSlot i { valid := true, entry := e, owner := p }).slot j = s.slot j :=
        State.slot_setSlot_ne _ _ hij
      refine ⟨?_, ?_, ?_, ?_, ?_⟩ <;> rw [hsame]
      · exact hj.free
      · exact hj.owner_exists
      · exact hj.owner_awaits
      · exact hj.owner_not_done
      · intro k hv hvk hok
        by_cases hik : i = k
        · subst hik
          rw [State.slot_setSlot_self] at hok
          exact absurd hok (hown j hv)
        · rw [State.slot_setSlot_ne _ _ hik] at hvk hok
          exact hj.one_per_port k hv hvk hok
  · have hr := h.rx
    have hslot {j : SlotIx} (hc : s.rx.label.copying = true) (hj : s.rx.slot = some j) :
        (s.setSlot i { valid := true, entry := e, owner := p }).slot j = s.slot j :=
      State.slot_setSlot_ne _ _ (hne (hr.slot_valid hc j hj))
    refine { hr with slot_valid := fun hc j hj => ?_, descriptor := fun hl j hj => ?_, payload := fun hl j hj => ?_ }
    · rw [hslot hc hj]; exact hr.slot_valid hc j hj
    · rw [hslot (by simp only [State.setSlot_rx] at hl; rw [hl]; rfl) hj]; exact hr.descriptor hl j hj
    · rw [hslot (by simp only [State.setSlot_rx] at hl; rw [hl]; rfl) hj]; exact hr.payload hl j hj
  · have hw := h.power
    exact ⟨hw.idle, hw.on_steps, hw.off_steps, hw.at_rest, hw.stopped, hw.running, hw.wake_width⟩

theorem RxInv.congr {s t : State} (h : RxInv s) (hr : t.rx = s.rx) (hs : t.slots = s.slots) (hc : t.cfg = s.cfg) :
    RxInv t := by
  cases s; cases t
  simp only at hr hs hc
  subst hr hs hc
  exact ⟨h.idle_iff, h.reading, h.copying, h.at_rest, h.attempts, h.search, h.misaligned, h.aligned, h.rem_bound,
    h.drain_bound, h.draining, h.matched, h.slot_valid, h.descriptor, h.payload, h.scratch_size⟩

theorem PowerInv.congr {s t : State} (h : PowerInv s) (hw : t.pwr = s.pwr) (hp : t.ports = s.ports)
    (hc : t.cfg = s.cfg) : PowerInv t := by
  cases s; cases t
  simp only at hw hp hc
  subst hw hp hc
  exact ⟨h.idle, h.on_steps, h.off_steps, h.at_rest, h.stopped, h.running, h.wake_width⟩

theorem SlotInv.congr {s t : State} {i : SlotIx} (h : SlotInv s i) (hs : t.slots = s.slots) (hp : t.ports = s.ports)
    (hw : t.pwr = s.pwr) (hc : t.cfg = s.cfg) : SlotInv t i := by
  cases s; cases t
  simp only at hw hp hc hs
  subst hw hp hc hs
  exact ⟨h.free, h.owner_exists, h.owner_awaits, h.owner_not_done, h.one_per_port⟩

/-- The sequencer moves while no port that it stops waiting for owns a valid slot. -/
theorem State.Inv.setPower {s t : State} (h : s.Inv) (hc : t.cfg = s.cfg) (hm : t.mem = s.mem) (hp : t.ports = s.ports)
    (hs : t.slots = s.slots) (hr : t.rx = s.rx) (hw : PowerInv t)
    (haw : ∀ i, (s.slot i).valid = true → s.awaits (s.slot i).owner → t.awaits (s.slot i).owner) : t.Inv := by
  refine ⟨hc ▸ h.params, hm ▸ h.memory, fun p => ?_, fun i => ?_, h.rx.congr hr hs hc, hw⟩
  · rw [State.port_congr hp, State.hasPort_congr hc]; exact h.ports p
  · have hi := h.slots i
    refine ⟨?_, ?_, ?_, ?_, ?_⟩ <;> simp only [State.slot_congr hs, State.port_congr hp, State.hasPort_congr hc]
    · exact hi.free
    · exact hi.owner_exists
    · exact fun hv => haw i hv (hi.owner_awaits hv)
    · exact hi.owner_not_done
    · exact hi.one_per_port

/-- The RX engine moves, and host memory stays in canonical form. -/
theorem State.Inv.setRx {s t : State} (h : s.Inv) (hc : t.cfg = s.cfg) (hp : t.ports = s.ports)
    (hs : t.slots = s.slots) (hw : t.pwr = s.pwr) (hm : t.mem.wf = true) (hr : RxInv t) : t.Inv := by
  refine ⟨hc ▸ h.params, hm, fun p => ?_, fun i => (h.slots i).congr hs hp hw hc, hr, h.power.congr hw hp hc⟩
  rw [State.port_congr hp, State.hasPort_congr hc]
  exact h.ports p

/-! ## A step of a port -/

/-- A port past registering owns a valid slot only where its request expects a response and resp_done is 0. -/
theorem State.Inv.owner_sending {s : State} (h : s.Inv) {i : SlotIx} {p : Port} (hv : (s.slot i).valid = true)
    (ho : (s.slot i).owner = p) : (s.port p).respDone = false ∧ s.awaits p := by
  subst ho
  exact ⟨(h.slots i).owner_not_done hv, (h.slots i).owner_awaits hv⟩

theorem PortStep.inv {s u : State} {p : Port} (hp : s.hasPort p = true) (h : s.Inv)
    (hu : PortStep s p (s.port p).req u) : u.Inv := by
  have hport := h.ports p
  have notPower (hne : (s.port p).phase ≠ .power) {x : PortState} (e : s.pwr.port = p) :
      (s.pwr.step.poweringOn = true → x.phase = .power ∧ x.req.op = 2#4) ∧
        (s.pwr.step.poweringOff = true → x.phase = .power ∧ x.req.op = 3#4) := by
    obtain ⟨hon, hoff⟩ := h.idle_not_power hne e
    simp [hon, hoff]
  cases hu with
  | registers i hreg hfree =>
    have hbusy : (s.port p).busy = true := hport.busy_iff.mpr (by simp [hreg])
    have hexp := hport.registering hreg
    have hinv := h.setPort p { s.port p with respDone := false, phase := .writing, wlabel := .w1 }
      ⟨by simp [hbusy], hport.busy_no_result, by simp [hp], by simp, fun _ => hexp.1, by simp, by simp, by simp⟩
      (fun j hv ho => (h.idle_owns_nothing (.inr hreg) j hv ho).elim) (notPower (by simp [hreg]))
    refine hinv.setSlot (State.freeSlot_spec hfree).1 _ hp (.inl ?_) ?_
      fun j hv ho => h.idle_owns_nothing (.inr hreg) j hv ho
    · rw [State.port_setPort_self]; exact ⟨rfl, hexp.2⟩
    · rw [State.port_setPort_self]
  | writes ph l es hw hes hl =>
    have hbusy : (s.port p).busy = true := hport.busy_iff.mpr (by simp [hw])
    have hinv := h.setPort p { s.port p with phase := ph, wlabel := l } ?portInv ?slots (notPower (by simp [hw]))
    case portInv =>
      obtain ⟨rfl, hl⟩ | ⟨rfl, hexp⟩ := hl
      · exact ⟨by simp [hbusy], hport.busy_no_result, by simp [hp], by simp, fun _ => hport.writing hw,
          fun _ => hl, by simp, by simp⟩
      · exact ⟨by simp [hbusy], hport.busy_no_result, by simp [hp], by simp, by simp, by simp,
          fun _ => ⟨hport.writing hw, hexp⟩, by simp⟩
    case slots =>
      intro j hv ho
      obtain ⟨hdone, haw⟩ := h.owner_sending hv ho
      refine ⟨hdone, ?_⟩
      obtain ⟨-, hexp⟩ | hwait | ⟨hpow, -⟩ := haw
      · obtain ⟨rfl, -⟩ | ⟨rfl, -⟩ := hl
        · exact .inl ⟨rfl, hexp⟩
        · exact .inr (.inl rfl)
      · simp [hw] at hwait
      · simp [hw] at hpow
    exact hinv.of_eq rfl rfl rfl rfl rfl rfl
  | completes hdone =>
    refine h.setPort p _ ⟨by simp, by simp, by simp, by simp, by simp, by simp, by simp, by simp⟩ ?_
      (notPower (by obtain ⟨hd, -⟩ | ⟨hd, -⟩ := hdone <;> simp [hd]))
    intro j hv ho
    obtain ⟨hnot, haw⟩ := h.owner_sending hv ho
    exfalso
    obtain ⟨hw, hs4⟩ | ⟨hw, hd⟩ := hdone
    · have hexp := hport.written hw hs4
      obtain ⟨-, he⟩ | hwait | ⟨hpow, -⟩ := haw
      · simp [hexp] at he
      · simp [hw] at hwait
      · simp [hw] at hpow
    · simp [hd] at hnot
  | waits => exact h

/-! ## A step of the sequencer -/

theorem PowerInv.accepted_on {s : State} (h : PowerInv s) {q : Port} (hq : (s.port q).phase = .power)
    (hop : (s.port q).req.op = 2#4) :
    PowerInv { s with pwr := { s.pwr with state := .poweringOn, stop := false, port := q, step := .pon2 } } :=
  ⟨by simp, fun _ => ⟨rfl, hq, hop⟩, by simp [PseqStep.poweringOff], by simp, by simp, by simp, h.wake_width⟩

theorem PowerInv.accepted_off {s : State} (h : PowerInv s) {q : Port} (hq : (s.port q).phase = .power)
    (hop : (s.port q).req.op = 3#4) :
    PowerInv { s with pwr := { s.pwr with state := .poweringOff, port := q, step := .pof2 } } :=
  ⟨by simp, by simp [PseqStep.poweringOn], fun _ => ⟨rfl, hq, hop⟩, by simp, by simp, by simp, h.wake_width⟩

/-- A port that awaits its response keeps awaiting it while the sequencer is not at PON6. -/
theorem State.awaits_of_ne_pon6 {s t : State} {p : Port} (h : s.awaits p) (hp : t.ports = s.ports)
    (h6 : s.pwr.step ≠ .pon6) : t.awaits p := by
  simp only [State.awaits, State.port_congr hp]
  exact h.imp_right (Or.imp_right fun hpow => absurd hpow.2.1 h6)

theorem SequencerStep.inv {s u : State} (h : s.Inv) (hu : SequencerStep s u) : u.Inv := by
  have hpower := h.power
  cases hu with
  | accepts q x e hl hq hx he =>
    obtain ⟨hhas, hph⟩ := State.drawnPort_some hq
    refine h.setPower rfl rfl rfl rfl rfl ?_ fun i _ haw => State.awaits_of_ne_pon6 haw rfl (by simp [hl])
    obtain ⟨hop, rfl⟩ | ⟨hop, rfl⟩ := hx
    · exact (hpower.accepted_on hph hop).congr rfl rfl rfl
    · exact (hpower.accepted_off hph hop).congr rfl rfl rfl
  | signals x b es hx hl hes hb =>
    exact h.setPower rfl rfl rfl rfl rfl ((hx hpower).congr rfl rfl rfl)
      fun i _ haw => State.awaits_of_ne_pon6 haw rfl hl.1
  | registers i hl hfree =>
    have hon := hpower.on_steps (by rw [hl]; rfl)
    have hport := h.ports s.pwr.port
    have hhas : s.hasPort s.pwr.port = true := by
      cases hhas : s.hasPort s.pwr.port with
      | true => rfl
      | false => simp [hport.absent hhas] at hon
    have hown (j : SlotIx) (hv : (s.slot j).valid = true) (ho : (s.slot j).owner = s.pwr.port) : False := by
      obtain ⟨hw, -⟩ | hw | ⟨-, h6, -⟩ := (h.owner_sending hv ho).2
      · simp [hon] at hw
      · simp [hon] at hw
      · simp [hl] at h6
    have hinv := h.setPort s.pwr.port { s.port s.pwr.port with respDone := false }
      ⟨hport.busy_iff, hport.busy_no_result, hport.absent, hport.registering, hport.writing, hport.written,
        hport.waiting, hport.power⟩
      (fun j hv ho => (hown j hv ho).elim) (fun _ => ⟨fun _ => hon.2, fun hoff => by simp [hl, PseqStep.poweringOff] at hoff⟩)
    have hmoved := hinv.setPower (t := { s.setPort s.pwr.port { s.port s.pwr.port with respDone := false } with
        pwr := { s.pwr with step := .pon6 } }) rfl rfl rfl rfl rfl
      (hinv.power.within rfl rfl rfl (.inl ⟨by simp [hl, PseqStep.poweringOn], rfl, rfl⟩))
      fun j _ haw => State.awaits_of_ne_pon6 haw rfl (by simp [hl])
    refine hmoved.setSlot (State.freeSlot_spec hfree).1 (initCompleteEntry s.cfg) hhas (.inr (.inr ⟨?_, rfl, rfl⟩)) ?_
      fun j hv ho => hown j hv ho
    · exact (congrArg PortState.phase (State.port_setPort_self ..)).trans hon.2.1
    · exact congrArg PortState.respDone (State.port_setPort_self ..)
  | completes st es hes hl =>
    have hpow : s.pwr.step.poweringOn = true ∨ s.pwr.step.poweringOff = true := by
      obtain ⟨h6, -⟩ | ⟨h8, -⟩ := hl
      · exact .inl (by rw [h6]; rfl)
      · exact .inr (by rw [h8]; rfl)
    have hphase : (s.port s.pwr.port).phase = .power :=
      hpow.elim (fun g => (hpower.on_steps g).2.1) fun g => (hpower.off_steps g).2.1
    have hown (j : SlotIx) (hv : (s.slot j).valid = true) (ho : (s.slot j).owner = s.pwr.port) : False := by
      obtain ⟨hnot, ⟨hw, -⟩ | hw | ⟨-, h6, -⟩⟩ := h.owner_sending hv ho
      · simp [hphase] at hw
      · simp [hphase] at hw
      · obtain ⟨-, hd, -⟩ | ⟨h8, -⟩ := hl
        · simp [hd] at hnot
        · simp [h8] at h6
    have hidle : PowerInv { s with pwr := { s.pwr with state := st, step := .idle } } := by
      refine ⟨fun _ => ?_, by simp [PseqStep.poweringOn], by simp [PseqStep.poweringOff], by simp, ?_, ?_,
        hpower.wake_width⟩
      · obtain ⟨-, -, rfl⟩ | ⟨-, rfl⟩ := hl <;> simp
      · obtain ⟨-, -, rfl⟩ | ⟨h8, rfl⟩ := hl
        · simp
        · exact fun _ => hpower.stopped (.inr h8)
      · obtain ⟨h6, -, rfl⟩ | ⟨-, rfl⟩ := hl
        · exact fun _ => hpower.running (.inl (hpower.on_steps (by rw [h6]; rfl)).1)
        · simp
    have hmoved := h.setPower (t := { s with pwr := { s.pwr with state := st, step := .idle } }) rfl rfl rfl rfl rfl
      hidle fun j hv haw => haw.imp_right (Or.imp_right fun g => (hown j hv g.2.2.symm).elim)
    have hdone := hmoved.setPort s.pwr.port
      { s.port s.pwr.port with busy := false, done := true, result := .ok, phase := .idle }
      ⟨by simp, by simp, by simp, by simp, by simp, by simp, by simp, by simp⟩
      (fun j hv ho => (hown j hv ho).elim)
      (fun _ => ⟨by simp [PseqStep.poweringOn], by simp [PseqStep.poweringOff]⟩)
    exact hdone.of_eq rfl rfl rfl rfl rfl rfl
  | waits => exact h

/-! ## The host and the environment -/

theorem State.Inv.submit {s : State} (h : s.Inv) {p : Port} (hp : s.hasPort p = true) (v : Word) : (s.submit p v).Inv := by
  have hport := h.ports p
  obtain ⟨x, hx, heq⟩ := s.submit_cases p v
  rw [heq]
  have fromIdle (hb : (s.port p).busy = false) {y : PortState} (hy : PortInv (s.hasPort p) y) : (s.setPort p y).Inv := by
    have hidle : (s.port p).phase = .idle := by
      by_contra hne
      simp [hport.busy_iff.mpr hne] at hb
    refine h.setPort p y hy (fun j hv ho => (h.idle_owns_nothing (.inl hidle) j hv ho).elim) fun e => ?_
    obtain ⟨hon, hoff⟩ := h.idle_not_power (p := p) (by simp [hidle]) e
    simp [hon, hoff]
  cases hx with
  | stored hb =>
    exact h.setPort_same p _ rfl rfl rfl ⟨hport.busy_iff, hport.busy_no_result, hport.absent, hport.registering,
      hport.writing, hport.written, hport.waiting, hport.power⟩
  | sends e hb hop he =>
    refine fromIdle hb ⟨?_, by simp, by simp [hp], ?_, ?_, by simp, ?_, ?_⟩ <;> cases e <;>
      simp [State.stagedWith, hop, he]
  | powers hb hop => exact fromIdle hb ⟨by simp, by simp, by simp [hp], by simp, by simp, by simp, by simp, fun _ => hop⟩
  | refuses hb => exact fromIdle hb ⟨by simp, by simp, by simp, by simp, by simp, by simp, by simp, by simp⟩

theorem State.Inv.writeReg {s : State} (h : s.Inv) (r : Reg) (v : Word) : (s.writeReg r v).Inv := by
  have hu := s.writeReg_cases r v
  generalize s.writeReg r v = u at hu ⊢
  cases hu with
  | stages p q =>
    have hport := h.ports p
    exact h.setPort_same p _ rfl rfl rfl ⟨hport.busy_iff, hport.busy_no_result, hport.absent, hport.registering,
      hport.writing, hport.written, hport.waiting, hport.power⟩
  | clearsDone p =>
    have hport := h.ports p
    exact h.setPort_same p _ rfl rfl rfl ⟨hport.busy_iff, fun hb => ⟨rfl, (hport.busy_no_result hb).2⟩, hport.absent,
      hport.registering, hport.writing, hport.written, hport.waiting, hport.power⟩
  | clearsSticky => exact h.of_eq rfl rfl rfl rfl rfl rfl
  | ignored => exact h

theorem length_hostBytes (w : Width) (v : Word) : (hostBytes w v).length = w.bytes := by
  cases w <;> simp only [hostBytes, Width.bytes]
  · rfl
  · split <;> simp
  · split <;> simp

/-- A wake value is its number modulo 2 ^ WC_W. -/
theorem toNat_wakeValue (c : Params) (v : BitVec 16) : (wakeValue c v).toNat = v.toNat % 2 ^ c.wcW := by
  rw [wakeValue, BitVec.toNat_ofNat]
  exact Nat.mod_eq_of_lt (Nat.lt_of_le_of_lt (Nat.mod_le _ _) v.isLt)

theorem State.Inv.envStep {s : State} (h : s.Inv) (e : EnvMove) : (s.envStep e).Inv := by
  have hpower := h.power
  cases e with
  | irq => exact h.of_eq rfl rfl rfl rfl rfl rfl
  | setOobAck | setHostAck =>
    exact h.setPower rfl rfl rfl rfl rfl
      ⟨hpower.idle, hpower.on_steps, hpower.off_steps, hpower.at_rest, hpower.stopped, hpower.running,
        hpower.wake_width⟩ fun _ _ haw => haw
  | setWakeConfig v =>
    refine h.setPower rfl rfl rfl rfl rfl
      ⟨hpower.idle, hpower.on_steps, hpower.off_steps, hpower.at_rest, hpower.stopped, hpower.running, ?_⟩
      fun _ _ haw => haw
    exact (toNat_wakeValue s.cfg v).trans_lt (Nat.mod_lt _ (Nat.two_pow_pos _))

/-! ## A step of the RX engine -/

/-- LOCATE's position after the updates that follow its return (45_receive_handler.md rule R361). -/
theorem RxInv.settle_locate {s t : State} (h : RxInv s) (hph : s.rx.phase = .readingHeader) (hc : t.cfg = s.cfg)
    {l : RxLabel} {w : Window} {a : Nat} {m : Fin 4} (hpos : LocatePosition l a m)
    (hr : t.rx = { s.rx with label := l, window := w, a := a, m := m }) : RxInv t.settle := by
  obtain ⟨hl, ha, h4, h8, h9⟩ := hpos
  have hrem := h.rem_bound
  have hdrain := h.drain_bound
  have hscr : s.rx.scratch.length = t.cfg.scratchBytes := hc ▸ h.scratch_size
  cases l <;> simp [RxLabel.reading] at hl <;> simp only [State.settle, hr]
  case l8 | l12 =>
    constructor <;> simp [hr, hph, ha, hrem, hdrain, hscr, RxLabel.reading, RxLabel.copying, h8]
  case l9 =>
    constructor <;> simp [hr, hph, ha, hrem, hdrain, hscr, RxLabel.reading, RxLabel.copying, h9]
  case l4 =>
    constructor <;> simp [hr, hph, ha, hrem, hdrain, hscr, RxLabel.reading, RxLabel.copying, h4]
  all_goals constructor <;> simp [hr, hph, ha, hrem, hdrain, hscr, RxLabel.reading, RxLabel.copying]

/-- What a body in progress keeps: the invariant of the RX engine without its position. -/
structure BodyInv (s : State) : Prop where
  phase : s.rx.phase = .copyingBody
  attempts : s.rx.a ≤ syncScanLimit
  rem_bound : s.rx.rem ≤ 0xFFFF
  drain_bound : s.rx.drainLeft ≤ 0xFFFF
  slot_valid : ∀ i, s.rx.slot = some i → (s.slot i).valid = true
  scratch_size : s.rx.scratch.length = s.cfg.scratchBytes

/-- A body position: the label is one of B2, B3, D1, H4 and H5, with what the invariant says there. -/
theorem BodyInv.rxInv {s : State} (h : BodyInv s) (hl : s.rx.label.copying = true ∨ s.rx.label = .h5)
    (hd : s.rx.label = .d1 → 0 < s.rx.drainLeft)
    (hs : s.rx.label = .b2 ∨ s.rx.label = .b3 ∨ s.rx.label = .h4 → s.rx.slot.isSome = true)
    (h2 : s.rx.label = .b2 → ∀ i, s.rx.slot = some i → (s.slot i).entry.dcap ≠ 0#16)
    (h3 : s.rx.label = .b3 → ∀ i, s.rx.slot = some i → payloadRead (s.slot i).entry s.rx.rem ≠ 0) : RxInv s := by
  have hph := h.phase
  refine ⟨?_, ?_, fun _ => hph, ?_, h.attempts, ?_, ?_, ?_, h.rem_bound, h.drain_bound, hd, hs,
    fun _ => h.slot_valid, h2, h3, h.scratch_size⟩ <;>
    cases hlab : s.rx.label <;> simp [hlab, RxLabel.copying] at hl <;> simp [hph, RxLabel.reading]

theorem BodyInv.bodyDone {s : State} (h : BodyInv s) : RxInv s.bodyDone := by
  have hb : BodyInv s.bodyDone := ⟨h.phase, h.attempts, h.rem_bound, h.drain_bound, h.slot_valid, h.scratch_size⟩
  cases hs : s.rx.slot <;> refine hb.rxInv ?_ ?_ ?_ ?_ ?_ <;> simp [State.bodyDone, hs, RxLabel.copying]

theorem BodyInv.thenDrain {s : State} (h : BodyInv s) {n : Nat} (hn : n ≤ 0xFFFF) : RxInv (s.thenDrain n) := by
  unfold State.thenDrain
  split
  · exact h.bodyDone
  · next h0 =>
    have hb : BodyInv { s with rx := { s.rx with drainLeft := n, label := .d1 } } :=
      ⟨h.phase, h.attempts, h.rem_bound, hn, h.slot_valid, h.scratch_size⟩
    exact hb.rxInv (.inl rfl) (fun _ => Nat.pos_of_ne_zero h0) (by simp) (by simp) (by simp)

theorem BodyInv.bodyB4 {s : State} (h : BodyInv s) : RxInv s.bodyB4 := by
  unfold State.bodyB4
  split
  · exact h.bodyDone
  · have hb : BodyInv { s with cntOverflow := s.cntOverflow + 1#32 } :=
      ⟨h.phase, h.attempts, h.rem_bound, h.drain_bound, h.slot_valid, h.scratch_size⟩
    exact hb.thenDrain h.rem_bound

theorem afterPayload_le (e : Entry) (rem : Nat) : afterPayload e rem ≤ rem := by
  unfold afterPayload
  split <;> omega

theorem BodyInv.setRem {s : State} (h : BodyInv s) {r : Nat} (hr : r ≤ 0xFFFF) :
    BodyInv { s with rx := { s.rx with rem := r } } :=
  ⟨h.phase, h.attempts, hr, h.drain_bound, h.slot_valid, h.scratch_size⟩

theorem BodyInv.setLabel {s : State} (h : BodyInv s) (l : RxLabel) : BodyInv { s with rx := { s.rx with label := l } } :=
  ⟨h.phase, h.attempts, h.rem_bound, h.drain_bound, h.slot_valid, h.scratch_size⟩

theorem BodyInv.bodyB3 {s : State} (h : BodyInv s) {i : SlotIx} (hi : s.rx.slot = some i) :
    RxInv (s.bodyB3 (s.slot i).entry) := by
  unfold State.bodyB3
  split
  · exact (h.setRem (Nat.le_trans (afterPayload_le _ _) h.rem_bound)).bodyB4
  · next h0 =>
    refine (h.setLabel .b3).rxInv (.inl rfl) (by simp) (fun _ => by simp [hi]) (by simp) fun _ j hj => ?_
    obtain rfl : i = j := Option.some.inj (hi.symm.trans hj)
    exact h0

theorem remainder_le (e : Entry) (len : Half) : remainder e len ≤ 0xFFFF := by
  have := len.isLt
  unfold remainder
  omega

theorem BodyInv.bodyB1 {s : State} (h : BodyInv s) : RxInv s.bodyB1 := by
  cases hi : s.rx.slot with
  | none =>
    have hb : BodyInv { s with cntNoMatch := s.cntNoMatch + 1#32 } :=
      ⟨h.phase, h.attempts, h.rem_bound, h.drain_bound, h.slot_valid, h.scratch_size⟩
    rw [State.bodyB1_none hi]
    exact hb.thenDrain (Nat.le_of_lt_succ s.rx.len.isLt)
  | some i =>
    have hb := h.setRem (remainder_le (s.slot i).entry s.rx.len)
    rw [State.bodyB1_some hi]
    split
    · exact hb.bodyB3 hi
    · next h0 =>
      refine (hb.setLabel .b2).rxInv (.inl rfl) (by simp) (fun _ => by simp [hi]) (fun _ j hj => ?_) (by simp)
      obtain rfl : i = j := Option.some.inj (hi.symm.trans hj)
      exact h0

theorem RxInv.body {s : State} (h : RxInv s) (hl : s.rx.label.copying = true) : BodyInv s :=
  ⟨h.copying hl, h.attempts, h.rem_bound, h.drain_bound, h.slot_valid hl, h.scratch_size⟩

/-- A chunk of DRAIN replaces as many bytes of the scratch buffer as it reads. -/
theorem BodyInv.drainChunk {s : State} (h : BodyInv s) {n : Nat} (hn : n ≤ 0xFFFF) : BodyInv (s.drainChunk n) := by
  unfold State.drainChunk
  split
  · exact ⟨h.phase, h.attempts, h.rem_bound, by simp, h.slot_valid, h.scratch_size⟩
  · have hscr := h.scratch_size
    refine ⟨h.phase, h.attempts, h.rem_bound, Nat.le_trans (Nat.sub_le _ _) hn, h.slot_valid, ?_⟩
    simp only [List.length_append, State.length_streamBytes, List.length_drop, hscr, State.transportRead_cfg]
    omega

theorem RxInv.bodyStep {s : State} (h : RxInv s) (hl : s.rx.label = .b2 ∨ s.rx.label = .b3 ∨ s.rx.label = .d1) :
    RxInv (s.bodyStep.getD s) := by
  have hb : BodyInv s := h.body (by obtain hl | hl | hl := hl <;> rw [hl] <;> rfl)
  have stored {addr n : Nat} {t : State} (ht : s.readToMemory addr n = some t) :
      BodyInv t ∧ t.rx = s.rx ∧ t.slots = s.slots := by
    obtain ⟨-, rfl⟩ := State.readToMemory_eq_some ht
    exact ⟨⟨hb.phase, hb.attempts, hb.rem_bound, hb.drain_bound, hb.slot_valid, hb.scratch_size⟩, rfl, rfl⟩
  obtain hl | hl | hl := hl
  · obtain ⟨i, hi⟩ := Option.isSome_iff_exists.mp (h.matched (.inl hl))
    simp only [State.bodyStep, hl, hi]
    cases hm : s.readToMemory (s.slot i).entry.dbase.toNat (s.slot i).entry.dcap.toNat with
    | none => exact h
    | some t =>
      obtain ⟨hbt, hrx, hsl⟩ := stored hm
      simp only [Option.map_some, Option.getD_some]
      rw [← State.slot_congr hsl]
      exact hbt.bodyB3 (hrx ▸ hi)
  · obtain ⟨i, hi⟩ := Option.isSome_iff_exists.mp (h.matched (.inr (.inl hl)))
    simp only [State.bodyStep, hl, hi]
    cases hm : s.readToMemory (s.slot i).entry.pbase.toNat (payloadRead (s.slot i).entry s.rx.rem) with
    | none => exact h
    | some t =>
      obtain ⟨hbt, hrx, hsl⟩ := stored hm
      simp only [Option.map_some, Option.getD_some]
      exact (hbt.setRem (Nat.le_trans (afterPayload_le _ _) h.rem_bound)).bodyB4
  · have hd := hb.drainChunk h.drain_bound
    simp only [State.bodyStep, hl, Option.getD_some]
    split
    · exact hd.bodyDone
    · next h0 =>
      have hlab : (s.drainChunk s.rx.drainLeft).rx.label = .d1 := by
        unfold State.drainChunk
        split <;> exact hl
      exact hd.rxInv (.inl (by rw [hlab]; rfl)) (fun _ => Nat.pos_of_ne_zero h0) (by simp [hlab]) (by simp [hlab])
        (by simp [hlab])

/-- At H5 and at H0 the invariant says only what it says at every label. -/
theorem RxInv.ending {s t : State} (h : RxInv s) {l : RxLabel} {ph : RxPhase}
    (hl : l = .h5 ∧ ph ≠ .idle ∨ l = .h0 ∧ ph = .idle ∨ l = .l1 ∧ ph = .readingHeader ∨ l = .l2 ∧ ph = .readingHeader)
    (hr : t.rx = { s.rx with label := l, phase := ph }) (hc : t.cfg = s.cfg) : RxInv t := by
  have hscr : s.rx.scratch.length = t.cfg.scratchBytes := hc ▸ h.scratch_size
  obtain ⟨rfl, hph⟩ | ⟨rfl, rfl⟩ | ⟨rfl, rfl⟩ | ⟨rfl, rfl⟩ := hl
  · constructor <;> simp [hr, RxLabel.reading, RxLabel.copying, h.attempts, h.rem_bound, h.drain_bound, hscr, hph]
  all_goals
    constructor <;> simp [hr, RxLabel.reading, RxLabel.copying, h.attempts, h.rem_bound, h.drain_bound, hscr]

theorem State.handlerResolve_bodyInv {s : State} (h : RxInv s) : BodyInv s.handlerResolve :=
  ⟨rfl, h.attempts, h.rem_bound, h.drain_bound, fun _ hi => (State.resolveSlot_some hi).1, h.scratch_size⟩

theorem LocateRead.settle_rxInv {s t : State} (h : RxInv s) (hph : s.rx.phase = .readingHeader) (ht : LocateRead s t) :
    RxInv t.settle := by
  cases ht with
  | goesOn n l w a m hn hpos hl => exact h.settle_locate hph rfl (hpos h) rfl
  | endsSkip n w hn hl =>
    exact h.settle_locate (l := .l11) (a := s.rx.a) (m := s.rx.m) hph rfl (.mk' h.attempts (by simp)) rfl

theorem State.handlerComplete_of_some {s : State} {i : SlotIx} (h : s.rx.slot = some i) :
    s.handlerComplete = { (s.setPort (s.slot i).owner { s.port (s.slot i).owner with respDone := true }).removeSlot i
      with rx := { s.rx with label := .h5 } } := by
  unfold State.handlerComplete
  split
  · next j hj =>
    obtain rfl : j = i := Option.some.inj (hj.symm.trans h)
    rfl
  · next hn => simp [h] at hn

/-- A slot that the RX engine does not hold is freed. -/
theorem State.Inv.removeSlot {s : State} (h : s.Inv) (hl : s.rx.label.copying = false) (i : SlotIx) :
    (s.removeSlot i).Inv := by
  refine ⟨h.params, h.memory, h.ports, fun j => ?_, ?_, ?_⟩
  · have hj := h.slots j
    have hsame {k : SlotIx} (hv : ((s.removeSlot i).slot k).valid = true) : (s.removeSlot i).slot k = s.slot k := by
      rw [State.slot_removeSlot] at hv ⊢
      split at hv
      · simp [Slot.free] at hv
      · next hik => rw [if_neg hik]
    have hwas {k : SlotIx} (hv : ((s.removeSlot i).slot k).valid = true) : (s.slot k).valid = true := by
      rwa [hsame hv] at hv
    refine ⟨fun hv => ?_, fun hv => ?_, fun hv => ?_, fun hv => ?_, fun k hv hk ho => ?_⟩
    · rw [State.slot_removeSlot] at hv ⊢
      split
      · rfl
      · next hij => rw [if_neg hij] at hv; exact hj.free hv
    · rw [hsame hv]; exact hj.owner_exists (hwas hv)
    · rw [hsame hv]; exact hj.owner_awaits (hwas hv)
    · rw [hsame hv]; exact hj.owner_not_done (hwas hv)
    · rw [hsame hv, hsame hk] at ho
      exact hj.one_per_port k (hwas hv) (hwas hk) ho
  · have off {l : RxLabel} (hc : l.copying = true) : s.rx.label ≠ l := fun e => by simp [e, hc] at hl
    exact { h.rx with
      slot_valid := fun hc => by simp [hl] at hc
      descriptor := fun h2 => absurd h2 (off rfl)
      payload := fun h3 => absurd h3 (off rfl) }
  · have hw := h.power
    exact ⟨hw.idle, hw.on_steps, hw.off_steps, hw.at_rest, hw.stopped, hw.running, hw.wake_width⟩

/-- H4: the slot it frees is the only valid one of the owner whose resp_done it sets. -/
theorem State.Inv.handlerComplete {s : State} (h : s.Inv) (hl : s.rx.label = .h4) : s.handlerComplete.Inv := by
  obtain ⟨i, hi⟩ := Option.isSome_iff_exists.mp (h.rx.matched (.inr (.inr hl)))
  have hc : s.rx.label.copying = true := by rw [hl]; rfl
  have hv : (s.slot i).valid = true := h.rx.slot_valid hc i hi
  have hlabel := h.setRx (t := { s with rx := { s.rx with label := .h5 } }) rfl rfl rfl rfl h.memory
    (h.rx.ending (.inl ⟨rfl, by simp [h.rx.copying hc]⟩) rfl rfl)
  have hfreed := hlabel.removeSlot rfl i
  have hport := h.ports (s.slot i).owner
  have hdone := hfreed.setPort (s.slot i).owner { s.port (s.slot i).owner with respDone := true }
    ⟨hport.busy_iff, hport.busy_no_result, hport.absent, hport.registering, hport.writing, hport.written,
      hport.waiting, hport.power⟩ ?slots fun he => ⟨fun hon => he ▸ (h.power.on_steps hon).2,
        fun hoff => he ▸ (h.power.off_steps hoff).2⟩
  case slots =>
    intro j hvj hoj
    exfalso
    rw [State.slot_removeSlot] at hvj hoj
    split at hvj
    · simp [Slot.free] at hvj
    · next hij =>
      rw [if_neg hij] at hoj
      exact hij ((h.slots i).one_per_port j hv hvj hoj.symm)
  rw [State.handlerComplete_of_some hi]
  exact hdone

/-- What a step of the RX engine leaves of host memory is in canonical form. -/
theorem BodyStep.mem_wf {s u : State} (hu : BodyStep s u) (hm : s.mem.wf = true) : u.mem.wf = true := by
  cases hu with
  | stores i addr n c l d r hi hat hadm hc =>
    rcases Nat.eq_zero_or_pos n with rfl | hn
    · exact hm
    · exact Memory.wf_write hm (by simpa using admitted_bound hadm hn)
  | drains => exact hm
  | moves => exact hm

/-- The RX engine's own part of the invariant, at every label but H4, where the table changes too. -/
theorem RxInv.execOnNwpIrq {s u : State} (h : RxInv s) (h4 : s.rx.label ≠ .h4) (hu : execOnNwpIrq s = .next u) :
    RxInv u := by
  by_cases hloc : s.rx.label.reading = true ∧ s.rx.label ≠ .h2
  · have hph := h.reading hloc.1
    obtain ⟨t, ht⟩ := State.locateStep_isSome hloc.1 hloc.2
    rw [execOnNwpIrq_locate ht] at hu
    cases hu
    by_cases h1 : s.rx.label = .l1
    · simp only [State.locateStep, h1] at ht
      cases ht
      exact h.ending (.inr (.inr (.inr ⟨rfl, hph⟩))) rfl rfl
    · exact (State.locateStep_read ht h1).settle_rxInv h hph
  · obtain ⟨hrest1, hrest2, hrest3⟩ := h.at_rest
    cases hl : s.rx.label <;> simp [hl, RxLabel.reading] at hloc
    case h0 =>
      simp only [Sys2Proof.Machine.execOnNwpIrq, hl] at hu
      split at hu <;> cases hu
      · exact h.ending (.inr (.inr (.inl ⟨rfl, rfl⟩))) rfl rfl
      · exact h
    case h2 =>
      rw [execOnNwpIrq_h2 hl] at hu
      cases hu
      exact (State.handlerResolve_bodyInv h).bodyB1
    case b2 | b3 | d1 =>
      rw [execOnNwpIrq_body (by simp [hl])] at hu
      cases hu
      exact h.bodyStep (by simp [hl])
    case h5 =>
      simp only [Sys2Proof.Machine.execOnNwpIrq, hl] at hu
      cases hu
      exact h.ending (.inr (.inl ⟨rfl, rfl⟩)) rfl rfl
    all_goals contradiction

theorem State.Inv.execOnNwpIrq {s u : State} (h : s.Inv) (hu : execOnNwpIrq s = .next u) : u.Inv := by
  by_cases h4 : s.rx.label = .h4
  · rw [execOnNwpIrq_h4 h4] at hu
    cases hu
    exact h.handlerComplete h4
  · have hrx := h.rx.execOnNwpIrq h4 hu
    cases execOnNwpIrq_cases hu with
    | enters | asks | locates | resolves | returns => exact h.setRx rfl rfl rfl rfl h.memory hrx
    | copies t hl ht =>
      have hwf := ht.mem_wf h.memory
      cases ht with
      | stores => exact h.setRx rfl rfl rfl rfl hwf hrx
      | drains | moves => exact h.setRx rfl rfl rfl rfl h.memory hrx
    | completes hl => contradiction
    | settles hl =>
      obtain ⟨h1, h2, h3⟩ := h.rx.at_rest
      obtain hl | hl | hl := hl <;> contradiction
    | waits => exact h

/-! ## Every step -/

theorem AgentStep.inv {s u : State} (h : s.Inv) (hu : AgentStep s u) : u.Inv := by
  cases hu with
  | port p u hm hp he => exact (State.sendStep_cases he).inv hp h
  | rx u hm he => exact h.execOnNwpIrq he
  | sequencer u hm hs => exact hs.inv h
  | submits p a v hm hp ha => exact h.submit hp v
  | writesRegister a v r hm => exact h.writeReg r v
  | stores a w v hm hb =>
    exact h.setRx rfl rfl rfl rfl (Memory.wf_write h.memory (by rw [length_hostBytes]; exact hb))
      (h.rx.congr rfl rfl rfl)
  | environment e hm => exact h.envStep e
  | nothing => exact h

theorem State.Inv.finish {s u : State} (h : u.Inv) : (s.finish u).Inv := h.of_eq rfl rfl rfl rfl rfl rfl

/-- Settles O60: each agent's step keeps its own part of the invariant and what the other parts read of it. -/
theorem stepKeepsInvariant : Obligations.StepKeepsInvariant := by
  intro s t hinv hstep
  obtain ⟨u, rfl, hu⟩ := step_cases hinv hstep
  exact (hu.inv hinv).finish

end Sys2Proof.Machine

/-! What every step leaves alone: the statements over every step of every agent, from the cases of one step. -/

namespace Sys2Proof.Machine

/-! ## What the agents other than the RX engine leave alone -/

/-- No agent but the RX engine writes the RX engine, tx_seq_num, the counters or the inbound stream. -/
theorem AgentStep.frame_of_ne_rx {s u : State} (hu : AgentStep s u) (hm : s.nextMove ≠ .rx) :
    u = { s with
      ports := u.ports, slots := u.slots, irqMask := u.irqMask, irqPending := u.irqPending
      syncTimeoutSticky := u.syncTimeoutSticky, pwr := u.pwr, mem := u.mem, history := u.history
      draws := u.draws, drawCount := u.drawCount } := by
  cases hu with
  | port p u hm hp he => cases State.sendStep_cases he <;> rfl
  | rx u h he => contradiction
  | sequencer u hm hs => cases hs <;> rfl
  | submits p a v hm hp ha =>
    obtain ⟨x, -, heq⟩ := s.submit_cases p v
    rw [heq]
    rfl
  | writesRegister a v r hm =>
    have hw := s.writeReg_cases r v
    generalize s.writeReg r v = u at hw ⊢
    cases hw <;> rfl
  | stores a w v hm hb => rfl
  | environment e hm => cases e <;> rfl
  | nothing => rfl

/-- Only the host and the RX engine write host memory. -/
theorem AgentStep.mem_of_ne_host {s u : State} (hu : AgentStep s u) (hm : s.nextMove ≠ .rx)
    (hh : ∀ h, s.nextMove ≠ .host h) : u.mem = s.mem := by
  cases hu with
  | port p u hm hp he => cases State.sendStep_cases he <;> rfl
  | rx u h he => contradiction
  | sequencer u hm hs => cases hs <;> rfl
  | submits p a v hm => exact absurd hm (hh _)
  | writesRegister a v r hm => exact absurd hm (hh _)
  | stores a w v hm => exact absurd hm (hh _)
  | environment e hm => cases e <;> rfl
  | nothing => rfl

@[simp] theorem State.finish_rx (s u : State) : (s.finish u).rx = u.rx := rfl
@[simp] theorem State.finish_txSeqNum (s u : State) : (s.finish u).txSeqNum = u.txSeqNum := rfl
@[simp] theorem State.finish_irqMask (s u : State) : (s.finish u).irqMask = u.irqMask := rfl
@[simp] theorem State.finish_mem (s u : State) : (s.finish u).mem = u.mem := rfl

@[simp] theorem State.port_finish (s u : State) (p : Port) : (s.finish u).port p = u.port p := rfl
@[simp] theorem State.slot_finish (s u : State) (i : SlotIx) : (s.finish u).slot i = u.slot i := rfl

/-! ## The table -/

theorem State.ptCount_eq (s : State) :
    s.ptCount = (if (s.slot 0).valid = true then 1 else 0) + if (s.slot 1).valid = true then 1 else 0 := by
  simp only [State.ptCount, SlotIx.all, ← State.slot_eq]
  cases h0 : (s.slot 0).valid <;> cases h1 : (s.slot 1).valid <;> simp [h0, h1]

/-- Two valid slots belong to two ports that exist. -/
theorem State.Inv.ptCount_le {s : State} (h : s.Inv) : s.ptCount ≤ min 2 s.cfg.numPorts := by
  have hports : 1 ≤ s.cfg.numPorts := by
    have hwf := h.params
    simp only [Params.wf, Bool.and_eq_true, decide_eq_true_eq] at hwf
    tauto
  have hboth (h0 : (s.slot 0).valid = true) (h1 : (s.slot 1).valid = true) : 2 ≤ s.cfg.numPorts := by
    have hne : (s.slot 0).owner ≠ (s.slot 1).owner := fun ho => by
      simpa using (h.slots 0).one_per_port 1 h0 h1 ho
    have hlt0 := (h.slots 0).owner_exists h0
    have hlt1 := (h.slots 1).owner_exists h1
    simp only [State.hasPort, decide_eq_true_eq] at hlt0 hlt1
    have hval : (s.slot 0).owner.val ≠ (s.slot 1).owner.val := fun e => hne (Fin.ext e)
    omega
  rw [State.ptCount_eq]
  by_cases hv : (s.slot 0).valid = true ∧ (s.slot 1).valid = true
  · have htwo := hboth hv.1 hv.2
    rw [if_pos hv.1, if_pos hv.2]
    omega
  · split <;> split <;> simp_all

/-- Settles O24: every step keeps the invariant, which gives each port at most one slot. -/
theorem oneSlotPerPort : Obligations.OneSlotPerPort := by
  intro s t hinv hstep
  have ht := stepKeepsInvariant s t hinv hstep
  exact ⟨fun i j => (ht.slots i).one_per_port j, ht.ptCount_le⟩

/-! ## tx_seq_num, irq_mask and the counters -/

/-- Where the RX engine moves, the step is the handler's. -/
theorem AgentStep.handler {s u : State} (hu : AgentStep s u) (hm : s.nextMove = .rx) : execOnNwpIrq s = .next u := by
  cases hu with
  | rx u _ he => exact he
  | nothing hne => contradiction
  | _ => simp_all

theorem AgentStep.rx_of_ne_rx {s u : State} (hu : AgentStep s u) (hm : s.nextMove ≠ .rx) : u.rx = s.rx :=
  (congrArg State.rx (hu.frame_of_ne_rx hm) :)

/-- After a body step the RX engine is not at L11. -/
theorem BodyStep.ne_l11 {s u : State} (hu : BodyStep s u) (hs : s.rx.label ≠ .l11) : u.rx.label ≠ .l11 := by
  cases hu with
  | stores i addr n c l d r hi hat hadm hc hl => exact hl.ne_l11
  | drains n l d hat hn h0 hl => exact hl.ne_l11
  | moves l d hl =>
    obtain hl | rfl := hl
    · exact hl.ne_l11
    · exact hs

/-- Of the RX engine's steps only the read that ends the skip loop writes tx_seq_num. -/
theorem RxStep.txSeqNum_cases {s u : State} (hinv : RxInv s) (hu : RxStep s u) :
    (u.rx.label = .l11 ∧ s.rx.label ≠ .l11 ∧ u.txSeqNum = s.txSeqNum + 1#8) ∨
      (u.rx.label = .l11 → s.rx.label = .l11) ∧ u.txSeqNum = s.txSeqNum := by
  cases hu with
  | enters hl he => exact .inr ⟨nofun, rfl⟩
  | asks hl => exact .inr ⟨nofun, rfl⟩
  | locates n x q b c hn hl hq =>
    obtain ⟨h11, hne, hq, -⟩ | ⟨hne, hq, -⟩ := hq
    · exact .inl ⟨h11, hne, hq⟩
    · exact .inr ⟨fun h => absurd h hne, hq⟩
  | resolves n c l d r hl hc hlab => exact .inr ⟨fun h => absurd h hlab.ne_l11, rfl⟩
  | copies t hl ht =>
    have hs : s.rx.label ≠ .l11 := by rintro h; simp [h] at hl
    exact .inr ⟨fun h => absurd h (ht.ne_l11 hs), by cases ht <;> rfl⟩
  | completes hl =>
    unfold State.handlerComplete
    split
    · exact .inr ⟨nofun, rfl⟩
    · exact .inr ⟨id, rfl⟩
  | returns hl => exact .inr ⟨nofun, rfl⟩
  | settles hl =>
    obtain ⟨h1, h2, h3⟩ := hinv.at_rest
    obtain hl | hl | hl := hl <;> contradiction
  | waits => exact .inr ⟨id, rfl⟩

/-- Settles O42: no other agent writes tx_seq_num or moves the RX engine. -/
theorem txSeqOnlyByLocate : Obligations.TxSeqOnlyByLocate := by
  intro s t hinv hstep
  obtain ⟨u, rfl, hu⟩ := step_cases hinv hstep
  simp only [State.finish_rx, State.finish_txSeqNum]
  by_cases hm : s.nextMove = .rx
  · obtain ⟨h11, hne, htx⟩ | ⟨hpos, htx⟩ := (execOnNwpIrq_cases (hu.handler hm)).txSeqNum_cases hinv.rx
    · exact ⟨fun _ => ⟨hm, htx⟩, fun h => absurd ⟨h11, hne⟩ h⟩
    · exact ⟨fun h => absurd (hpos h.1) h.2, fun _ => htx⟩
  · have hf := hu.frame_of_ne_rx hm
    rw [hu.rx_of_ne_rx hm]
    exact ⟨fun h => absurd h.1 h.2, fun _ => (congrArg State.txSeqNum hf :)⟩

/-- H0 and H5 are the RX engine's writers of irq_mask. -/
theorem RxStep.irqMask_cases {s u : State} (hinv : RxInv s) (hu : RxStep s u) :
    u.irqMask = s.irqMask ∨ s.rx.label = .h0 ∧ u.irqMask = true ∨ s.rx.label = .h5 ∧ u.irqMask = false := by
  cases hu with
  | enters hl he => exact .inr (.inl ⟨hl, rfl⟩)
  | returns hl => exact .inr (.inr ⟨hl, rfl⟩)
  | copies t hl ht => exact .inl (by cases ht <;> rfl)
  | completes hl =>
    unfold State.handlerComplete
    split <;> exact .inl rfl
  | settles hl =>
    obtain ⟨h1, h2, h3⟩ := hinv.at_rest
    obtain hl | hl | hl := hl <;> contradiction
  | asks | locates | resolves | waits => exact .inl rfl

/-- PON4 and POF5 are the other writers of irq_mask. -/
theorem AgentStep.irqMask_of_ne_rx {s u : State} (hu : AgentStep s u) (hm : s.nextMove ≠ .rx) :
    u.irqMask = s.irqMask ∨ s.nextMove = .sequencer ∧
      (s.pwr.step = .pon4 ∧ u.irqMask = false ∨ s.pwr.step = .pof5 ∧ u.irqMask = true) := by
  cases hu with
  | port p u hm' hp he => exact .inl (by cases State.sendStep_cases he <;> rfl)
  | rx u h he => contradiction
  | sequencer u hm' hs =>
    cases hs with
    | signals x b es hx hl hes hb => exact hb.imp_right fun h => ⟨hm', h⟩
    | accepts | registers | completes | waits => exact .inl rfl
  | submits p a v =>
    obtain ⟨x, -, heq⟩ := s.submit_cases p v
    rw [heq]
    exact .inl rfl
  | writesRegister a v r =>
    have hw := s.writeReg_cases r v
    generalize s.writeReg r v = u at hw ⊢
    exact .inl (by cases hw <;> rfl)
  | stores => exact .inl rfl
  | environment e => exact .inl (by cases e <;> rfl)
  | nothing => exact .inl rfl

theorem getLsbD_zero_bit (b : Bool) (lo : Nat) : (bit b lo).getLsbD 0 = (b && decide (lo = 0)) := by
  cases lo <;> simp [bit, field]

theorem getLsbD_zero_field {n : Nat} (v : BitVec n) {lo : Nat} (h : 0 < lo) : (field v lo).getLsbD 0 = false := by
  simp [field, h]

/-- GSTATUS[0] is irq_mask (10_state.md rule R61). -/
theorem State.gstatus_getLsbD_zero (s : State) : s.gstatus.getLsbD 0 = s.irqMask := by
  simp only [State.gstatus, BitVec.getLsbD_or, getLsbD_zero_bit, getLsbD_zero_field _ (show 0 < 4 by decide),
    getLsbD_zero_field _ (show 0 < 8 by decide), getLsbD_zero_field _ (show 0 < 12 by decide)]
  simp

theorem execOnNwpIrq_h0_disabled {s : State} (hl : s.rx.label = .h0) (he : s.irqEnabled = false) :
    execOnNwpIrq s = .next s := by
  simp only [execOnNwpIrq, hl, he, Bool.false_eq_true, if_false]

/-- Settles O43. -/
theorem irqMaskWriters : Obligations.IrqMaskWriters := by
  refine ⟨rfl, State.gstatus_getLsbD_zero, fun s hl hmask => execOnNwpIrq_h0_disabled hl (by simp [State.irqEnabled, hmask]),
    fun s t hinv hstep hchanged => ?_⟩
  obtain ⟨u, rfl, hu⟩ := step_cases hinv hstep
  rw [State.finish_irqMask] at hchanged ⊢
  by_cases hm : s.nextMove = .rx
  · obtain hsame | h0 | h5 := (execOnNwpIrq_cases (hu.handler hm)).irqMask_cases hinv.rx
    · exact absurd hsame hchanged
    · exact .inl ⟨hm, h0⟩
    · exact .inr (.inl ⟨hm, h5⟩)
  · obtain hsame | ⟨hseq, h4 | h5⟩ := hu.irqMask_of_ne_rx hm
    · exact absurd hsame hchanged
    · exact .inr (.inr (.inl ⟨hseq, h4⟩))
    · exact .inr (.inr (.inr ⟨hseq, h5⟩))

/-- A step of the handler counts at most one error. -/
theorem RxStep.counters_cases {s u : State} (hinv : RxInv s) (hu : RxStep s u) :
    (u.cntSyncTimeout = s.cntSyncTimeout ∧ u.cntNoMatch = s.cntNoMatch ∧ u.cntOverflow = s.cntOverflow) ∨
      (u.cntSyncTimeout = s.cntSyncTimeout + 1#32 ∧ u.cntNoMatch = s.cntNoMatch ∧ u.cntOverflow = s.cntOverflow) ∨
      (u.cntSyncTimeout = s.cntSyncTimeout ∧ u.cntNoMatch = s.cntNoMatch + 1#32 ∧ u.cntOverflow = s.cntOverflow) ∨
      (u.cntSyncTimeout = s.cntSyncTimeout ∧ u.cntNoMatch = s.cntNoMatch ∧ u.cntOverflow = s.cntOverflow + 1#32) := by
  cases hu with
  | locates n x q b c hn hl hq =>
    obtain ⟨-, -, -, hc⟩ | ⟨-, -, hc | hc⟩ := hq
    · exact .inl ⟨hc, rfl, rfl⟩
    · exact .inl ⟨hc, rfl, rfl⟩
    · exact .inr (.inl ⟨hc, rfl, rfl⟩)
  | resolves n c l d r hl hc =>
    obtain ⟨hn, hc⟩ | ⟨hn, hc⟩ | ⟨hn, hc⟩ := hc
    · exact .inl ⟨rfl, hn, hc⟩
    · exact .inr (.inr (.inl ⟨rfl, hn, hc⟩))
    · exact .inr (.inr (.inr ⟨rfl, hn, hc⟩))
  | copies t hl ht =>
    cases ht with
    | stores i addr n c l d r hi hat hadm hc =>
      obtain hc | hc := hc
      · exact .inl ⟨rfl, rfl, hc⟩
      · exact .inr (.inr (.inr ⟨rfl, rfl, hc⟩))
    | drains | moves => exact .inl ⟨rfl, rfl, rfl⟩
  | completes hl =>
    unfold State.handlerComplete
    split <;> exact .inl ⟨rfl, rfl, rfl⟩
  | settles hl =>
    obtain ⟨h1, h2, h3⟩ := hinv.at_rest
    obtain hl | hl | hl := hl <;> contradiction
  | enters | asks | returns | waits => exact .inl ⟨rfl, rfl, rfl⟩

/-- Settles O44. -/
theorem countersOnlyByRx : Obligations.CountersOnlyByRx := by
  intro s t hinv hstep sameT sameN sameO
  obtain ⟨u, rfl, hu⟩ := step_cases hinv hstep
  by_cases hm : s.nextMove = .rx
  · exact ((execOnNwpIrq_cases (hu.handler hm)).counters_cases hinv.rx).imp_right fun h => ⟨hm, h⟩
  · have hf := hu.frame_of_ne_rx hm
    exact .inl ⟨(congrArg State.cntSyncTimeout hf :), (congrArg State.cntNoMatch hf :), (congrArg State.cntOverflow hf :)⟩

/-! ## Requests -/

/-- What two states say of a port's requests. -/
def SameRequests (s u : State) (p : Port) : Prop :=
  (u.port p).staging = (s.port p).staging ∧ (u.port p).req = (s.port p).req

theorem SameRequests.setPort {s u : State} (p : Port) {q : Port} {x : PortState} (hu : u.ports = (s.setPort q x).ports)
    (hs : x.staging = (s.port q).staging) (hr : x.req = (s.port q).req) : SameRequests s u p := by
  unfold SameRequests
  rw [State.port_congr hu, State.port_setPort]
  split
  · next h => exact h ▸ ⟨hs, hr⟩
  · exact ⟨rfl, rfl⟩

theorem SameRequests.handlerComplete (s : State) (p : Port) : SameRequests s s.handlerComplete p := by
  unfold State.handlerComplete
  split
  · exact SameRequests.setPort p rfl rfl rfl
  · exact ⟨rfl, rfl⟩

/-- Only a host write changes a request. -/
theorem AgentStep.sameRequests {s u : State} (hinv : s.Inv) (hu : AgentStep s u) (hh : ∀ h, s.nextMove ≠ .host h)
    (p : Port) : SameRequests s u p := by
  cases hu with
  | port q u hm hq he =>
    cases State.sendStep_cases he with
    | registers i hp hi => exact SameRequests.setPort p rfl rfl rfl
    | writes ph l es hp hes hl => exact SameRequests.setPort p rfl rfl rfl
    | completes hp => exact SameRequests.setPort p rfl rfl rfl
    | waits => exact ⟨rfl, rfl⟩
  | rx u hm he =>
    cases execOnNwpIrq_cases he with
    | completes hl => exact SameRequests.handlerComplete s p
    | copies t hl ht => cases ht <;> exact ⟨rfl, rfl⟩
    | settles hl =>
      obtain ⟨h1, h2, h3⟩ := hinv.rx.at_rest
      obtain hl | hl | hl := hl <;> contradiction
    | enters | asks | locates | resolves | returns | waits => exact ⟨rfl, rfl⟩
  | sequencer u hm hs =>
    cases hs with
    | registers i hl hi => exact SameRequests.setPort p rfl rfl rfl
    | completes st es hes hl => exact SameRequests.setPort p rfl rfl rfl
    | accepts | signals | waits => exact ⟨rfl, rfl⟩
  | submits q a v hm => exact absurd hm (hh _)
  | writesRegister a v r hm => exact absurd hm (hh _)
  | stores a w v hm => exact absurd hm (hh _)
  | environment e hm => cases e <;> exact ⟨rfl, rfl⟩
  | nothing => exact ⟨rfl, rfl⟩

/-- A submission changes a request of its own port only, and the in-flight record only where it was idle. -/
theorem State.submit_req {s : State} (hinv : s.Inv) {p q : Port} {v : Word}
    (h : ((s.submit q v).port p).req ≠ (s.port p).req) :
    q = p ∧ (s.port p).phase = .idle ∧ ((s.submit q v).port p).req = ((s.submit q v).port p).staging := by
  obtain ⟨x, hx, heq⟩ := s.submit_cases q v
  rw [heq, State.port_setPort] at h ⊢
  split at h
  · next hqp =>
    subst hqp
    have idle (hb : (s.port q).busy = false) : (s.port q).phase = .idle := by
      by_contra hne
      simp [(hinv.ports q).busy_iff.mpr hne] at hb
    rw [if_pos rfl]
    cases hx with
    | stored hb => exact absurd rfl h
    | sends e hb => exact ⟨rfl, idle hb, rfl⟩
    | powers hb => exact ⟨rfl, idle hb, rfl⟩
    | refuses hb => exact ⟨rfl, idle hb, rfl⟩
  · exact absurd rfl h

theorem State.writeReg_req (s : State) (r : Reg) (v : Word) (p : Port) :
    ((s.writeReg r v).port p).req = (s.port p).req := by
  have hw := s.writeReg_cases r v
  generalize s.writeReg r v = u at hw ⊢
  cases hw with
  | stages q r | clearsDone q =>
    rw [State.port_setPort]
    split
    · next h => rw [h]
    · rfl
  | clearsSticky | ignored => rfl

/-- Settles O46: a request changes by a submission or a register write, which are host writes of 32 bits. -/
theorem requestsChangeOnlyBySubmission : Obligations.RequestsChangeOnlyBySubmission := by
  intro s t p hinv hstep
  obtain ⟨u, rfl, hu⟩ := step_cases hinv hstep
  rw [State.port_finish]
  by_cases hh : ∀ h, s.nextMove ≠ .host h
  · obtain ⟨hstaging, hreq⟩ := hu.sameRequests hinv hh p
    exact ⟨fun h => absurd hstaging h, fun h => absurd hreq h⟩
  cases hu with
  | submits q a v hm hq ha =>
    refine ⟨fun _ => ⟨a, v, hm⟩, fun h => ?_⟩
    obtain ⟨rfl, hidle, hsame⟩ := State.submit_req hinv h
    exact ⟨hidle, hsame, a, v, hm, ha⟩
  | writesRegister a v r hm => exact ⟨fun _ => ⟨a, v, hm⟩, fun h => absurd (s.writeReg_req r v p) h⟩
  | stores | nothing => exact ⟨fun h => absurd rfl h, fun h => absurd rfl h⟩
  | _ => simp_all

/-! ## The inbound stream -/

theorem State.streamAt_zero (s : State) (n : Nat) : s.streamAt 0 n = s.streamBytes n := by
  simp only [State.streamAt, State.streamBytes, Nat.zero_add]

/-- `n` bytes are taken from the stream, and the events record just those. -/
structure Consumes (s u : State) (n : Nat) (es : List Event) : Prop where
  history : u.history = s.history ++ es
  bytes : inboundBytesOf es = s.streamBytes n
  inbound : u.inbound = s.inbound.drop n
  consumed : u.consumed = s.consumed + n
  nonempty : ∀ e, e ∈ es → e.nonempty = true

theorem Consumes.quiet {s u : State} {es : List Event} (hes : QuietEvents es) (hh : u.history = s.history ++ es)
    (hi : u.inbound = s.inbound) (hc : u.consumed = s.consumed) : Consumes s u 0 es :=
  ⟨hh, hes.1, hi, hc, hes.2⟩

theorem Consumes.none {s u : State} (hh : u.history = s.history) (hi : u.inbound = s.inbound)
    (hc : u.consumed = s.consumed) : Consumes s u 0 [] :=
  .quiet .nil (by rw [hh, List.append_nil]) hi hc

theorem Consumes.read {s u : State} {n : Nat} {es : List Event} (hn : 0 < n) (hes : QuietEvents es)
    (hh : u.history = s.history ++ (.rx .rx (s.streamBytes n) :: es)) (hi : u.inbound = s.inbound.drop n)
    (hc : u.consumed = s.consumed + n) : Consumes s u n (.rx .rx (s.streamBytes n) :: es) := by
  refine ⟨hh, ?_, hi, hc, fun e he => ?_⟩
  · have hbytes := hes.1
    simp only [inboundBytesOf] at hbytes ⊢
    rw [List.flatMap_cons, hbytes, List.append_nil]
  · obtain rfl | he := List.mem_cons.mp he
    · have hlen := s.length_streamBytes n
      cases hb : s.streamBytes n with
      | nil => simp [hb] at hlen; omega
      | cons => rfl
    · exact hes.2 e he

theorem scratchBytes_pos {c : Params} (h : c.wf = true) : 0 < c.scratchBytes := by
  simp only [Params.wf, Bool.and_eq_true, decide_eq_true_eq] at h
  omega

theorem State.Inv.body_stores_pos {s : State} (hinv : s.Inv) {i : SlotIx} {addr n : Nat} (hi : s.rx.slot = some i)
    (hat : (s.rx.label = .b2 ∧ addr = (s.slot i).entry.dbase.toNat ∧ n = (s.slot i).entry.dcap.toNat) ∨
      (s.rx.label = .b3 ∧ addr = (s.slot i).entry.pbase.toNat ∧ n = payloadBytes (s.slot i).entry s.rx.rem)) :
    0 < n := by
  obtain ⟨hl, -, rfl⟩ | ⟨hl, -, rfl⟩ := hat
  · exact Nat.pos_of_ne_zero fun h0 => hinv.rx.descriptor hl i hi (BitVec.eq_of_toNat_eq h0)
  · exact Nat.pos_of_ne_zero (hinv.rx.payload hl i hi)

theorem RxStep.consumes {s u : State} (hinv : s.Inv) (hu : RxStep s u) : ∃ n es, Consumes s u n es := by
  cases hu with
  | enters | returns => exact ⟨0, _, .quiet (quiet_level _ _) rfl rfl rfl⟩
  | asks => exact ⟨0, _, .quiet (.tx _ (by simp [bytes32])) rfl rfl rfl⟩
  | locates n x q b c hn => exact ⟨n, _, .read (hn hinv.rx) .nil rfl rfl rfl⟩
  | resolves | waits => exact ⟨0, [], .none rfl rfl rfl⟩
  | copies t hl ht =>
    cases ht with
    | stores i addr n c l d r hi hat =>
      exact ⟨n, _, .read (es := [.memw .rx addr (s.streamBytes n)]) (hinv.body_stores_pos hi hat)
        ⟨rfl, by simp [Event.nonempty]⟩ (by simp) rfl rfl⟩
    | drains n l d hat hn h0 =>
      have hpos := scratchBytes_pos hinv.params
      exact ⟨n, _, .read (by omega) .nil rfl rfl rfl⟩
    | moves => exact ⟨0, [], .none rfl rfl rfl⟩
  | completes hl =>
    unfold State.handlerComplete
    split <;> exact ⟨0, [], .none rfl rfl rfl⟩
  | settles hl =>
    obtain ⟨h1, h2, h3⟩ := hinv.rx.at_rest
    obtain hl | hl | hl := hl <;> contradiction

theorem AgentStep.quiet_of_ne_rx {s u : State} (hu : AgentStep s u) (hm : s.nextMove ≠ .rx) :
    ∃ es, QuietEvents es ∧ u.history = s.history ++ es := by
  have none {t : State} (h : t.history = s.history) : ∃ es, QuietEvents es ∧ t.history = s.history ++ es :=
    ⟨[], .nil, by rw [h, List.append_nil]⟩
  cases hu with
  | port p u hm hp he =>
    cases State.sendStep_cases he with
    | writes ph l es hp hes hl => exact ⟨es, hes, rfl⟩
    | registers | completes | waits => exact none rfl
  | rx u h he => contradiction
  | sequencer u hm hs =>
    cases hs with
    | accepts q x e hl hq hx he => exact ⟨[e], he, rfl⟩
    | signals x b es hx hl hes hb => exact ⟨es, hes, rfl⟩
    | completes st es hes hl => exact ⟨es, hes, rfl⟩
    | registers | waits => exact none rfl
  | submits p a v hm hp ha =>
    obtain ⟨x, -, heq⟩ := s.submit_cases p v
    rw [heq]
    exact none rfl
  | writesRegister a v r hm =>
    have hw := s.writeReg_cases r v
    generalize s.writeReg r v = u at hw ⊢
    cases hw <;> exact none rfl
  | stores a w v hm hb => exact none rfl
  | environment e hm => cases e <;> exact none rfl
  | nothing => exact none rfl

theorem State.moveEvents_quiet (s : State) : QuietEvents s.moveEvents := by
  unfold State.moveEvents
  split
  · exact .nil
  · exact .nil
  · exact .nil
  · next h _ =>
    cases h <;> simp only [State.hostEvents] <;> split
    · exact ⟨rfl, by simp [Event.nonempty]⟩
    · exact .nil
    · exact ⟨rfl, by simp [Event.nonempty]⟩
    · exact .nil
  · exact ⟨rfl, by simp [Event.nonempty]⟩

/-- Settles O47: the RX engine's reads are the only steps that take bytes, and the move's own event carries none. -/
theorem streamConsumedInOrder : Obligations.StreamConsumedInOrder := by
  intro s t hinv hstep
  obtain ⟨u, rfl, hu⟩ := step_cases hinv hstep
  obtain ⟨n, es, h⟩ : ∃ n es, Consumes s u n es := by
    by_cases hm : s.nextMove = .rx
    · exact (execOnNwpIrq_cases (hu.handler hm)).consumes hinv
    · obtain ⟨es, hes, hh⟩ := hu.quiet_of_ne_rx hm
      have hf := hu.frame_of_ne_rx hm
      exact ⟨0, es, .quiet hes hh (congrArg State.inbound hf :) (congrArg State.consumed hf :)⟩
  have hmove := s.moveEvents_quiet
  refine ⟨n, es ++ s.moveEvents, ?_, ?_, h.consumed, State.streamByte_of_consumed h.inbound h.consumed, fun e he => ?_⟩
  · rw [← List.append_assoc, ← h.history]
    rfl
  · have hbytes := h.bytes
    have hnone := hmove.1
    simp only [inboundBytesOf] at hbytes hnone ⊢
    rw [List.flatMap_append, hbytes, hnone, List.append_nil, State.streamAt_zero]
  · exact (List.mem_append.mp he).elim (h.nonempty e) (hmove.2 e)

end Sys2Proof.Machine

/-! Who stores to host memory, what a step of a port leaves alone, and the agents that never move again
(20_memory.md rules R81 to R84, 44_dispatcher.md rule R331). -/

namespace Sys2Proof.Machine

/-! ## Host memory under the RX engine's steps -/

theorem LocateRead.mem {s t : State} (h : LocateRead s t) : t.mem = s.mem := by
  cases h <;> rfl

theorem State.bodyB1_mem (s : State) : s.bodyB1.mem = s.mem := by
  obtain ⟨n, c, l, d, r, -, -, h⟩ := s.bodyB1_eq
  rw [h]

theorem State.settle_mem (s : State) : s.settle.mem = s.mem := by
  unfold State.settle
  split
  · rfl
  · rfl
  · exact s.bodyB1_mem
  · rfl

/-- The step that the RX engine stores with: its slot, its label, and its buffer. -/
def State.storesAt (s : State) (i : SlotIx) (addr n : Nat) : Prop :=
  s.rx.slot = some i ∧
    ((s.rx.label = .b2 ∧ addr = (s.slot i).entry.dbase.toNat ∧ n = (s.slot i).entry.dcap.toNat) ∨
      (s.rx.label = .b3 ∧ addr = (s.slot i).entry.pbase.toNat ∧ n = payloadBytes (s.slot i).entry s.rx.rem))

theorem BodyStep.mem_cases {s u : State} (hu : BodyStep s u) : u.mem = s.mem ∨ ∃ i addr n, s.storesAt i addr n ∧
    admitted s.cfg addr n = true ∧ u.mem = s.mem.write addr (s.streamBytes n) := by
  cases hu with
  | stores i addr n c l d r hi hat hadm hc hl => exact .inr ⟨i, addr, n, ⟨hi, hat⟩, hadm, rfl⟩
  | drains | moves => exact .inl rfl

theorem RxStep.mem_cases {s u : State} (hu : RxStep s u) : u.mem = s.mem ∨ ∃ i addr n, s.storesAt i addr n ∧
    admitted s.cfg addr n = true ∧ u.mem = s.mem.write addr (s.streamBytes n) := by
  cases hu with
  | copies t hl ht => exact ht.mem_cases
  | completes hl =>
    unfold State.handlerComplete
    split <;> exact .inl rfl
  | settles hl => exact .inl s.settle_mem
  | enters | asks | locates | resolves | returns | waits => exact .inl rfl

theorem hostmemOkAt_of_admitted {c : Params} {addr n a : Nat} (h : admitted c addr n = true) (hlo : addr ≤ a)
    (hhi : a < addr + n) : hostmemOkAt c a = true := by
  have hat := List.all_eq_true.mp h (a - addr) (List.mem_range.mpr (by omega))
  rwa [Nat.add_sub_cancel' hlo] at hat

/-- An admitted access keeps every byte outside its buffer. -/
theorem Memory.get_write_admitted {m : Memory} {c : Params} {addr n a : Nat} {bytes : List Byte} (hm : m.wf = true)
    (hadm : admitted c addr n = true) (hlen : bytes.length = n) (ha : a < addr ∨ addr + n ≤ a) :
    (m.write addr bytes).get a = m.get a := by
  rcases Nat.eq_zero_or_pos n with h0 | hn
  · rw [List.length_eq_zero_iff.mp (hlen.trans h0), Memory.write_nil]
  · exact Memory.get_write_outside hm (by rw [hlen]; exact admitted_bound hadm hn) (by rwa [hlen])

/-- Settles O48: the RX engine's two stores and the host's own. -/
theorem memoryWriters : Obligations.MemoryWriters := by
  intro s t a hinv hstep hchanged
  obtain ⟨u, rfl, hu⟩ := step_cases hinv hstep
  rw [State.finish_mem] at hchanged
  by_cases hm : s.nextMove = .rx
  · obtain hsame | ⟨i, addr, n, ⟨hi, hat⟩, hadm, hmem⟩ := (execOnNwpIrq_cases (hu.handler hm)).mem_cases
    · exact absurd (by rw [hsame]) hchanged
    · have hin : addr ≤ a ∧ a < addr + n := by
        by_contra hout
        refine hchanged ?_
        rw [hmem]
        exact Memory.get_write_admitted hinv.memory hadm (s.length_streamBytes n) (by omega)
      refine .inr ⟨hm, hostmemOkAt_of_admitted hadm hin.1 hin.2, i, hi, ?_⟩
      obtain ⟨hl, rfl, rfl⟩ | ⟨hl, rfl, rfl⟩ := hat
      · exact .inl ⟨hl, hin⟩
      · exact .inr ⟨hl, hin⟩
  · by_cases hh : ∀ h, s.nextMove ≠ .host h
    · exact absurd (by rw [hu.mem_of_ne_host hm hh]) hchanged
    cases hu with
    | stores b w v hmove hb =>
      refine .inl ⟨b, w, v, hmove, ?_⟩
      by_contra hout
      exact hchanged (Memory.get_write_outside hinv.memory (by rwa [length_hostBytes]) (by rw [length_hostBytes]; omega))
    | submits p b v hmove hp ha =>
      obtain ⟨x, -, heq⟩ := s.submit_cases p v
      rw [heq] at hchanged
      exact absurd rfl hchanged
    | writesRegister b v r hmove =>
      have hw := s.writeReg_cases r v
      generalize s.writeReg r v = u at hw hchanged
      cases hw <;> exact absurd rfl hchanged
    | nothing => exact absurd rfl hchanged
    | _ => simp_all

/-! ## Host memory under each operation -/

theorem PortStep.mem {s u : State} {p : Port} {r : Request} (hu : PortStep s p r u) : u.mem = s.mem := by
  cases hu <;> rfl

theorem execSendCommand_mem {e : Bool} {o : Half} {s u : State} (h : execSendCommand e o s = .next u) :
    u.mem = s.mem := by
  cases hm : s.nextMove <;> simp only [execSendCommand, hm] at h
  case port p =>
    split at h
    · exact (State.sendStep_cases h).mem
    · cases h; rfl
  all_goals cases h; rfl

theorem execWriteCommand_mem {p : Port} {s u : State} (h : execWriteCommand p s = .next u) : u.mem = s.mem := by
  unfold execWriteCommand at h
  split at h
  · next hp =>
    cases hw : s.writeStep p (s.port p).req <;> rw [hw] at h <;> cases h
    case none => rfl
    case some => exact (State.writeStep_cases hp.2 hw).mem
  · cases h; rfl

theorem State.insertRequest_mem {s t : State} {p : Port} {e : Entry} (h : s.insertRequest p e = some t) :
    t.mem = s.mem := by
  obtain ⟨i, -, rfl⟩ := State.insertRequest_spec h
  rfl

theorem execPowerOn_mem {s u : State} (h : execPowerOn s = .next u) : u.mem = s.mem := by
  cases hl : s.pwr.step <;> simp only [execPowerOn, hl] at h
  case idle =>
    split at h
    · split at h <;> cases h <;> rfl
    · cases h; rfl
  case pon5 =>
    split at h
    · next t ht => cases h; exact (State.insertRequest_mem ht :)
    · cases h; rfl
  case pon6 => split at h <;> cases h <;> rfl
  all_goals cases h; rfl

theorem execPowerOff_mem {s u : State} (h : execPowerOff s = .next u) : u.mem = s.mem := by
  cases hl : s.pwr.step <;> simp only [execPowerOff, hl] at h
  case idle =>
    split at h
    · split at h <;> cases h <;> rfl
    · cases h; rfl
  case pof2 | pof3 => split at h <;> cases h <;> rfl
  all_goals cases h; rfl

theorem State.submit_mem (s : State) (p : Port) (v : Word) : (s.submit p v).mem = s.mem := by
  obtain ⟨x, -, heq⟩ := s.submit_cases p v
  rw [heq]
  rfl

theorem execIllegal_mem {w : Word} {s u : State} (h : execIllegal w s = .next u) : u.mem = s.mem := by
  cases hc : s.ctrlWritePort with
  | none => rw [execIllegal_none hc] at h; cases h; rfl
  | some p =>
    by_cases hi : isIllegal w = true
    · rw [illegal_eq_submit hc hi] at h; cases h; exact s.submit_mem p w
    · simp only [execIllegal, hc, hi] at h; cases h; rfl

theorem State.locateStep_mem {s t : State} (h : s.locateStep = some t) : t.mem = s.mem := by
  by_cases h1 : s.rx.label = .l1
  · simp only [State.locateStep, h1] at h
    cases h
    rfl
  · exact (State.locateStep_read h h1).mem

/-- What N2H_SYNC_WORD answers is LOCATE's own step on the stream with the word in front. -/
theorem execN2hSyncWord_cases {b : Bool} {q : BitVec 2} {s u : State} (h : execN2hSyncWord b q s = .next u) :
    u = s ∨ (s.answering (bytes32 (n2hSyncValue s.cfg b q))).locateStep = some u := by
  have hl : (s.answering (bytes32 (n2hSyncValue s.cfg b q))).rx.label = s.rx.label := rfl
  cases hlab : s.rx.label <;> simp only [execN2hSyncWord, hlab] at h <;> cases h <;>
    simp only [State.locateStep, hl, hlab, or_true, true_or]

theorem execFrameHeader_cases {o l : Half} {s u : State} (h : execFrameHeader o l s = .next u) :
    u = s ∨ (∃ a bytes, u = s.transportWrite a bytes) ∨
      (s.answering (bytes32 (headerValue o l))).locateStep = some u := by
  cases hm : s.nextMove <;> simp only [execFrameHeader, hm] at h
  case port p =>
    split at h <;> cases h
    · exact .inr (.inl ⟨_, _, rfl⟩)
    · exact .inl rfl
  case rx =>
    split at h <;> cases h
    · next hl =>
      have hl' : (s.answering (bytes32 (headerValue o l))).rx.label = .l11 := hl
      exact .inr (.inr (by simp only [State.locateStep, hl']))
    · exact .inl rfl
  all_goals cases h; exact .inl rfl

theorem execReadResponseBody_mem {s u : State} (h : execReadResponseBody s = .next u)
    (hl : s.rx.label ≠ .b2 ∧ s.rx.label ≠ .b3) : u.mem = s.mem := by
  cases h
  by_cases h1 : s.rx.label = .b1
  · simp only [State.bodyStep, h1, Option.getD_some]
    exact s.bodyB1_mem
  · obtain hsame | ⟨i, addr, n, ⟨-, ⟨h2, -⟩ | ⟨h3, -⟩⟩, -⟩ := (State.bodyStep_cases h1).mem_cases
    · exact hsame
    · exact absurd h2 hl.1
    · exact absurd h3 hl.2

theorem exec_mem {i : Instr} {s t : State} (h : exec i s = .next t)
    (hl : i = .readResponseBody ∨ i = .onNwpIrq → s.rx.label ≠ .b2 ∧ s.rx.label ≠ .b3) : t.mem = s.mem := by
  cases i with
  | sendCommand e o => exact execSendCommand_mem h
  | powerOn => exact execPowerOn_mem h
  | powerOff => exact execPowerOff_mem h
  | illegal w => exact execIllegal_mem h
  | h2nSyncWord =>
    change execH2nSyncWord s = .next t at h
    cases hm : s.nextMove <;> simp only [execH2nSyncWord, hm] at h
    case port p => split at h <;> cases h <;> rfl
    all_goals cases h; rfl
  | h2nCnysWord => cases h; rfl
  | n2hSyncWord b q =>
    obtain rfl | hs := execN2hSyncWord_cases h
    · rfl
    · exact (State.locateStep_mem hs :)
  | frameHeader o l =>
    obtain rfl | ⟨a, bytes, rfl⟩ | hs := execFrameHeader_cases h
    · rfl
    · rfl
    · exact (State.locateStep_mem hs :)
  | locate =>
    cases h
    cases hs : s.locateStep with
    | none => rfl
    | some u => exact State.locateStep_mem hs
  | writeCommand p => exact execWriteCommand_mem h
  | readResponseBody => exact execReadResponseBody_mem h (hl (.inl rfl))
  | drain n =>
    cases h
    unfold State.drainChunk
    split <;> rfl
  | register p e =>
    change execRegister p e s = .next t at h
    unfold execRegister at h
    split at h <;> cases h
    · cases hi : s.insertRequest p e with
      | none => rfl
      | some u => exact State.insertRequest_mem hi
    · rfl
  | resolve o => cases h; rfl
  | remove i => cases h; rfl
  | submit p v =>
    change execSubmit p v s = .next t at h
    unfold execSubmit at h
    split at h <;> cases h
    · exact s.submit_mem p v
    · rfl
  | complete p r =>
    change execComplete p r s = .next t at h
    unfold execComplete at h
    split at h <;> cases h <;> rfl
  | onNwpIrq =>
    obtain hsame | ⟨i, addr, n, ⟨-, ⟨h2, -⟩ | ⟨h3, -⟩⟩, -⟩ := (execOnNwpIrq_cases h).mem_cases
    · exact hsame
    · exact absurd h2 (hl (.inr rfl)).1
    · exact absurd h3 (hl (.inr rfl)).2

/-- Settles O49. -/
theorem onlyBodyStepsStore : Obligations.OnlyBodyStepsStore := by
  intro i s t h hl a
  rw [exec_mem h hl]

/-! ## A step of a port -/

/-- Settles O50: the port's slot is a free one it takes, and its other writes are its own elements and the history. -/
theorem portsAreIndependent : Obligations.PortsAreIndependent := by
  intro s t p hinv hm hstep
  obtain ⟨u, rfl, hu⟩ := step_cases hinv hstep
  simp only [State.port_finish, State.slot_finish]
  cases hu with
  | port q u hm' hq he =>
    obtain rfl : p = q := by rw [hm] at hm'; cases hm'; rfl
    cases State.sendStep_cases he with
    | registers i hp hi =>
      refine ⟨fun q hne => State.port_setPort_ne _ _ (Ne.symm hne), fun j hj => ?_, rfl⟩
      rw [State.slot_setPort, State.slot_setSlot] at hj ⊢
      split at hj
      · next hij => rw [if_pos hij]; exact ⟨rfl, rfl⟩
      · exact absurd rfl hj
    | writes ph l es hp hes hl =>
      exact ⟨fun q hne => State.port_setPort_ne _ _ (Ne.symm hne), fun j hj => absurd rfl hj, rfl⟩
    | completes hp =>
      exact ⟨fun q hne => State.port_setPort_ne _ _ (Ne.symm hne), fun j hj => absurd rfl hj, rfl⟩
    | waits => exact ⟨fun _ _ => rfl, fun j hj => absurd rfl hj, rfl⟩
  | nothing => exact ⟨fun _ _ => rfl, fun j hj => absurd rfl hj, rfl⟩
  | _ => simp_all

/-! ## Agents that are stuck -/

theorem repeatExec_of_still {i : Instr} {s : State} (h : exec i s = .next s) (n : Nat) : repeatExec i n s = .next s := by
  induction n with
  | zero => rfl
  | succ n ih => rw [repeatExec, h]; exact ih

/-- Port p stands at a segment that it may not read. -/
structure StuckPort (s : State) (p : Port) (l : WriteLabel) : Prop where
  exists_ : s.hasPort p = true
  writing : (s.port p).phase = .writing
  label : (s.port p).wlabel = l ∧ (l = .w3 ∨ l = .w4 ∨ l = .w5)
  sent : ((s.port p).req.segmentAt l).sent = true
  refused : admitted s.cfg ((s.port p).req.segmentAt l).base.toNat ((s.port p).req.segmentAt l).len.toNat = false

theorem StuckPort.writeStep {s : State} {p : Port} {l : WriteLabel} (h : StuckPort s p l) {r : Request}
    (hr : r.segmentAt l = (s.port p).req.segmentAt l) : s.writeStep p r = some (.next s) := by
  have hstays : s.writeSegment p r l = s := by
    simp only [State.writeSegment, hr, h.sent, if_true, State.sendFromMemory, h.refused, Bool.false_eq_true, if_false]
  obtain ⟨hl, rfl | rfl | rfl⟩ := h.label <;> simp only [State.writeStep, hl, hstays]

theorem StuckPort.execWriteCommand {s : State} {p : Port} {l : WriteLabel} (h : StuckPort s p l) :
    execWriteCommand p s = .next s := by
  rw [Machine.execWriteCommand, if_pos ⟨h.exists_, h.writing⟩, h.writeStep rfl]
  rfl

theorem StuckPort.sendStep {s : State} {p : Port} {l : WriteLabel} (h : StuckPort s p l) {r : Request}
    (hr : r.segmentAt l = (s.port p).req.segmentAt l) : s.sendStep p r = .next s := by
  simp only [State.sendStep, h.writing, h.writeStep hr, Option.getD_some]

theorem Request.segmentAt_with (r : Request) (e : Bool) (o : Half) (l : WriteLabel) :
    ({ r with exp := e, cmdOpcode := o } : Request).segmentAt l = r.segmentAt l := by
  cases l <;> rfl

theorem StuckPort.execSendCommand {s : State} {p : Port} {l : WriteLabel} (h : StuckPort s p l)
    (hm : s.nextMove = .port p) (e : Bool) (o : Half) : execSendCommand e o s = .next s := by
  rw [execSendCommand_port hm h.exists_]
  exact h.sendStep (Request.segmentAt_with ..)

/-- What a stuck port keeps: all but its staging registers and resp_done. -/
def KeepsPort (s u : State) (p : Port) : Prop :=
  u.port p = { s.port p with staging := (u.port p).staging, rsv := (u.port p).rsv, respDone := (u.port p).respDone }

theorem KeepsPort.of_ports {s u : State} (h : u.ports = s.ports) (p : Port) : KeepsPort s u p := by
  rw [KeepsPort, State.port_congr h]

theorem KeepsPort.setPort {s u : State} {p q : Port} {x : PortState} (hu : u.ports = (s.setPort q x).ports)
    (hx : q = p → ∃ st v d, x = { s.port p with staging := st, rsv := v, respDone := d }) : KeepsPort s u p := by
  rw [KeepsPort, State.port_congr hu, State.port_setPort]
  split
  · next h =>
    obtain ⟨st, v, d, rfl⟩ := hx h
    rfl
  · rfl

theorem AgentStep.keepsPort {s u : State} {p : Port} (hinv : s.Inv) (hw : (s.port p).phase = .writing)
    (hown : ∀ v, s.sendStep p (s.port p).req = .next v → v = s) (hu : AgentStep s u) : KeepsPort s u p := by
  have hbusy : (s.port p).busy = true := (hinv.ports p).busy_iff.mpr (by simp [hw])
  have notPower (hon : s.pwr.step.poweringOn = true ∨ s.pwr.step.poweringOff = true) : s.pwr.port ≠ p := by
    rintro rfl
    have hph : (s.port s.pwr.port).phase = .power :=
      hon.elim (fun g => (hinv.power.on_steps g).2.1) fun g => (hinv.power.off_steps g).2.1
    simp [hw] at hph
  cases hu with
  | port q u hm hq he =>
    by_cases hqp : q = p
    · subst hqp
      rw [hown u he]
      exact .of_ports rfl q
    · cases State.sendStep_cases he with
      | registers | writes | completes => exact .setPort rfl fun h => absurd h hqp
      | waits => exact .of_ports rfl p
  | rx u hm he =>
    cases execOnNwpIrq_cases he with
    | completes hl =>
      unfold State.handlerComplete
      split
      · exact .setPort rfl fun h => ⟨_, _, true, by rw [← h]⟩
      · exact .of_ports rfl p
    | copies t hl ht => cases ht <;> exact .of_ports rfl p
    | settles hl =>
      obtain ⟨h1, h2, h3⟩ := hinv.rx.at_rest
      obtain hl | hl | hl := hl <;> contradiction
    | enters | asks | locates | resolves | returns | waits => exact .of_ports rfl p
  | sequencer u hm hs =>
    cases hs with
    | registers i hl hi => exact .setPort rfl fun h => absurd h (notPower (.inl (by rw [hl]; rfl)))
    | completes st es hes hl =>
      refine .setPort rfl fun h => absurd h (notPower ?_)
      exact hl.imp (fun g => by rw [g.1]; rfl) fun g => by rw [g.1]; rfl
    | accepts | signals | waits => exact .of_ports rfl p
  | submits q a v hm hq ha =>
    obtain ⟨x, hx, heq⟩ := s.submit_cases q v
    rw [heq]
    refine .setPort rfl fun h => ?_
    subst h
    cases hx with
    | stored hb => exact ⟨_, _, _, rfl⟩
    | sends e hb | powers hb | refuses hb => simp [hbusy] at hb
  | writesRegister a v r hm =>
    have hw := s.writeReg_cases r v
    generalize s.writeReg r v = u at hw ⊢
    cases hw with
    | stages q r => exact .setPort rfl fun h => ⟨r, _, _, by rw [h]⟩
    | clearsDone q =>
      refine .setPort rfl fun h => ⟨(s.port q).staging, (s.port q).rsv, (s.port q).respDone, ?_⟩
      subst h
      rw [← ((hinv.ports q).busy_no_result hbusy).1]
    | clearsSticky | ignored => exact .of_ports rfl p
  | stores => exact .of_ports rfl p
  | environment e => cases e <;> exact .of_ports rfl p
  | nothing => exact .of_ports rfl p

theorem AgentStep.cfg {s u : State} (hu : AgentStep s u) (hinv : s.Inv) : u.cfg = s.cfg := by
  by_cases hm : s.nextMove = .rx
  · cases execOnNwpIrq_cases (hu.handler hm) with
    | completes hl =>
      unfold State.handlerComplete
      split <;> rfl
    | copies t hl ht => cases ht <;> rfl
    | settles hl =>
      obtain ⟨h1, h2, h3⟩ := hinv.rx.at_rest
      obtain hl | hl | hl := hl <;> contradiction
    | enters | asks | locates | resolves | returns | waits => rfl
  · exact (congrArg State.cfg (hu.frame_of_ne_rx hm) :)

theorem step_cfg {s t : State} (hinv : s.Inv) (hstep : step s = .next t) : t.cfg = s.cfg := by
  obtain ⟨u, rfl, hu⟩ := step_cases hinv hstep
  exact hu.cfg hinv

theorem step_of_fetch {s u : State} {i : Instr} (hf : s.fetch = some i) (hu : exec i s = .next u) :
    step s = .next (s.finish u) := by
  simp only [step, hf, hu, mapNext]

theorem State.finish_of_no_event {s u : State} (h : s.moveEvents = []) : s.finish u = u.popMove := by
  rw [State.finish, h, List.append_nil]
  rfl

theorem State.moveEvents_port {s : State} {p : Port} (hm : s.nextMove = .port p) : s.moveEvents = [] := by
  simp only [State.moveEvents, hm]

theorem State.moveEvents_rx {s : State} (hm : s.nextMove = .rx) : s.moveEvents = [] := by
  simp only [State.moveEvents, hm]

theorem State.fetch_port {s : State} {p : Port} (hm : s.nextMove = .port p) (hp : s.hasPort p = true)
    (hph : (s.port p).phase = .registering ∨ (s.port p).phase = .writing ∨ (s.port p).phase = .waiting)
    (hop : (s.port p).req.op = 1#4) :
    s.fetch = some (.sendCommand (s.port p).req.exp (s.port p).req.cmdOpcode) := by
  obtain hph | hph | hph := hph <;>
    simp only [State.fetch, hm, State.portOperation, hp, hph, if_true, Request.decode_word_of_send hop]

theorem State.fetch_rx {s : State} (hm : s.nextMove = .rx) : s.fetch = some .onNwpIrq := by
  simp only [State.fetch, hm]

theorem StuckPort.settled {s : State} {p : Port} {l : WriteLabel} (h : StuckPort s p l) :
    (∀ n, repeatExec (.writeCommand p) n s = .next s) ∧
    (s.nextMove = .port p → ∀ e o n, repeatExec (.sendCommand e o) n s = .next s) ∧
    (s.Inv → s.nextMove = .port p →
      step s = .next { s with moves := s.moves.tail, moveCount := s.moveCount + 1 }) ∧
    (s.Inv → ∀ t, step s = .next t → t.cfg = s.cfg ∧
      t.port p = { s.port p with
        staging := (t.port p).staging, rsv := (t.port p).rsv, respDone := (t.port p).respDone }) := by
  refine ⟨repeatExec_of_still h.execWriteCommand, fun hm e o => repeatExec_of_still (h.execSendCommand hm e o),
    fun hinv hm => ?_, fun hinv t hstep => ⟨step_cfg hinv hstep, ?_⟩⟩
  · have hf := State.fetch_port hm h.exists_ (.inr (.inl h.writing)) ((hinv.ports p).writing h.writing)
    rw [step_of_fetch hf (h.execSendCommand hm _ _), State.finish_of_no_event (State.moveEvents_port hm)]
    rfl
  · obtain ⟨u, rfl, hu⟩ := step_cases hinv hstep
    have hkeeps : KeepsPort s u p := hu.keepsPort hinv h.writing fun v hv => by
      rw [h.sendStep rfl] at hv
      cases hv
      rfl
    exact hkeeps

/-- The RX engine stands at a buffer that it may not write. -/
theorem bodyStep_none_of_refused {s : State} {i : SlotIx} (hi : s.rx.slot = some i)
    (hat : s.rx.label = .b2 ∧ admitted s.cfg (s.slot i).entry.dbase.toNat (s.slot i).entry.dcap.toNat = false ∨
      s.rx.label = .b3 ∧ admitted s.cfg (s.slot i).entry.pbase.toNat (payloadRead (s.slot i).entry s.rx.rem) = false) :
    s.bodyStep = none := by
  obtain ⟨hl, hadm⟩ | ⟨hl, hadm⟩ := hat <;>
    simp only [State.bodyStep, hl, hi, State.readToMemory, hadm, Bool.false_eq_true, if_false, Option.map_none]

/-- Settles O17: an access that is not admitted leaves its agent where it is, and no other agent writes its position. -/
theorem unadmittedAccessIsStuck : Obligations.UnadmittedAccessIsStuck := by
  refine ⟨fun s p g hp hw hlabel hsent hadm => ?_, fun s i hi hat => ?_⟩
  · obtain ⟨hl, rfl⟩ | ⟨hl, rfl⟩ | ⟨hl, rfl⟩ := hlabel
    · exact StuckPort.settled (l := .w3) ⟨hp, hw, ⟨hl, by simp⟩, hsent, hadm⟩
    · exact StuckPort.settled (l := .w4) ⟨hp, hw, ⟨hl, by simp⟩, hsent, hadm⟩
    · exact StuckPort.settled (l := .w5) ⟨hp, hw, ⟨hl, by simp⟩, hsent, hadm⟩
  · have hnone := bodyStep_none_of_refused hi hat
    have hlabel : s.rx.label = .b2 ∨ s.rx.label = .b3 := hat.imp And.left And.left
    have hirq : execOnNwpIrq s = .next s := by
      rw [execOnNwpIrq_body (hlabel.imp_right .inl), hnone]
      rfl
    have hbody : execReadResponseBody s = .next s := by
      rw [execReadResponseBody, hnone]
      rfl
    refine ⟨fun n => ⟨repeatExec_of_still (i := .onNwpIrq) hirq n,
      repeatExec_of_still (i := .readResponseBody) hbody n⟩, fun hm => ?_, fun hinv t hstep => ?_⟩
    · rw [step_of_fetch (State.fetch_rx hm) hirq, State.finish_of_no_event (State.moveEvents_rx hm)]
      rfl
    · refine ⟨step_cfg hinv hstep, ?_, ?_⟩
      · obtain ⟨u, rfl, hu⟩ := step_cases hinv hstep
        by_cases hm : s.nextMove = .rx
        · have he := hu.handler hm
          rw [hirq] at he
          cases he
          rfl
        · exact hu.rx_of_ne_rx hm
      · by_contra hchanged
        have hcopy : s.rx.label.copying = true := by obtain h | h := hlabel <;> rw [h] <;> rfl
        obtain ⟨-, h4, -⟩ := noEviction s t i hinv hstep (hinv.rx.slot_valid hcopy i hi) hchanged
        simp [h4] at hlabel

end Sys2Proof.Machine

/-! Two runs of one step: other counters change nothing but the counters (10_state.md rule R49), and other bytes of a
body change nothing but the bytes moved (44_dispatcher.md rule R328). -/

namespace Sys2Proof.Machine

/-! ## Other counters -/

/-- The same state with other values in the three counters. -/
def State.withCounters (s : State) (x y z : Word) : State :=
  { s with cntSyncTimeout := x, cntNoMatch := y, cntOverflow := z }

/-- Two states that differ in the counters at most. -/
def SameButCounters (t u : State) : Prop := ∃ x y z, u = t.withCounters x y z

section
variable (s : State) (x y z : Word)

theorem State.afterSearch_withCounters (r : SearchEnd × Window × Nat) :
    (s.withCounters x y z).afterSearch r = (s.afterSearch r).withCounters x y z := by
  obtain ⟨e, w, a⟩ := r
  cases e with
  | found => simp only [State.afterSearch]; split <;> rfl
  | needsRead => rfl
  | timeout => rfl

theorem State.afterWord_withCounters (w : Window) :
    (s.withCounters x y z).afterWord w = (s.afterWord w).withCounters x y z := by
  cases hm : syncMatch s.cfg w.candidate s.txSeqNum with
  | true =>
    rw [State.afterWord_accepted hm, State.afterWord_accepted (s := s.withCounters x y z) hm]
    rfl
  | false =>
    rw [State.afterWord_wordA hm, State.afterWord_wordA (s := s.withCounters x y z) hm]
    rfl

theorem State.locateStep_withCounters :
    (s.withCounters x y z).locateStep = s.locateStep.map (·.withCounters x y z) := by
  have hl : (s.withCounters x y z).rx.label = s.rx.label := rfl
  cases hlab : s.rx.label <;> rw [hlab] at hl <;> simp only [State.locateStep, hl, hlab, Option.map_some, Option.map_none]
  case l2 | l4 => exact congrArg some (State.afterSearch_withCounters (s.transportRead 4) x y z _)
  case l8 => exact congrArg some (State.afterWord_withCounters (s.transportRead s.rx.m.val) x y z _)
  case l9 | l10 => exact congrArg some (State.afterWord_withCounters (s.transportRead 4) x y z _)
  all_goals rfl

theorem State.thenDrain_withCounters (n : Nat) :
    (s.withCounters x y z).thenDrain n = (s.thenDrain n).withCounters x y z := by
  unfold State.thenDrain
  split <;> rfl

theorem State.bodyB4_withCounters : SameButCounters s.bodyB4 (s.withCounters x y z).bodyB4 := by
  have hr : (s.withCounters x y z).rx.rem = s.rx.rem := rfl
  by_cases h0 : s.rx.rem = 0
  · rw [State.bodyB4, State.bodyB4, hr, if_pos h0, if_pos h0]
    exact ⟨x, y, z, rfl⟩
  · rw [State.bodyB4, State.bodyB4, hr, if_neg h0, if_neg h0]
    exact ⟨x, y, z + 1#32, State.thenDrain_withCounters { s with cntOverflow := s.cntOverflow + 1#32 } ..⟩

theorem State.bodyB3_withCounters (e : Entry) : SameButCounters (s.bodyB3 e) ((s.withCounters x y z).bodyB3 e) := by
  have hr : (s.withCounters x y z).rx = s.rx := rfl
  by_cases h0 : payloadRead e s.rx.rem = 0
  · rw [State.bodyB3, State.bodyB3, hr, if_pos h0, if_pos h0]
    exact State.bodyB4_withCounters { s with rx := { s.rx with rem := afterPayload e s.rx.rem } } x y z
  · rw [State.bodyB3, State.bodyB3, hr, if_neg h0, if_neg h0]
    exact ⟨x, y, z, rfl⟩

theorem State.bodyB1_withCounters : SameButCounters s.bodyB1 (s.withCounters x y z).bodyB1 := by
  cases hi : s.rx.slot with
  | none =>
    rw [State.bodyB1_none hi, State.bodyB1_none (s := s.withCounters x y z) hi]
    exact ⟨x, y + 1#32, z, State.thenDrain_withCounters { s with cntNoMatch := s.cntNoMatch + 1#32 } ..⟩
  | some i =>
    have hs : (s.withCounters x y z).slot i = s.slot i := rfl
    rw [State.bodyB1_some hi, State.bodyB1_some (s := s.withCounters x y z) hi, hs]
    split
    · exact State.bodyB3_withCounters
        { s with rx := { s.rx with rem := remainder (s.slot i).entry s.rx.len } } x y z (s.slot i).entry
    · exact ⟨x, y, z, rfl⟩

theorem State.readToMemory_withCounters (addr n : Nat) :
    (s.withCounters x y z).readToMemory addr n = (s.readToMemory addr n).map (·.withCounters x y z) := by
  have hc : (s.withCounters x y z).cfg = s.cfg := rfl
  unfold State.readToMemory
  rw [hc]
  split <;> rfl

theorem State.bodyStep_withCounters :
    SameButCounters (s.bodyStep.getD s) ((s.withCounters x y z).bodyStep.getD (s.withCounters x y z)) := by
  have hr : (s.withCounters x y z).rx = s.rx := rfl
  have hs (i : SlotIx) : (s.withCounters x y z).slot i = s.slot i := rfl
  have still : SameButCounters s (s.withCounters x y z) := ⟨x, y, z, rfl⟩
  cases hl : s.rx.label <;> cases hi : s.rx.slot <;> simp only [State.bodyStep, hr, hl, hi, hs, Option.getD_none]
  case b1.none | b1.some => exact State.bodyB1_withCounters s x y z
  case b2.some i =>
    rw [State.readToMemory_withCounters]
    cases s.readToMemory (s.slot i).entry.dbase.toNat (s.slot i).entry.dcap.toNat with
    | none => exact still
    | some t => exact State.bodyB3_withCounters t x y z _
  case b3.some i =>
    rw [State.readToMemory_withCounters]
    cases s.readToMemory (s.slot i).entry.pbase.toNat (payloadRead (s.slot i).entry s.rx.rem) with
    | none => exact still
    | some t => exact State.bodyB4_withCounters { t with rx := { t.rx with rem := _ } } x y z
  case d1.none | d1.some =>
    have hd : (s.withCounters x y z).drainChunk s.rx.drainLeft = (s.drainChunk s.rx.drainLeft).withCounters x y z := by
      unfold State.drainChunk
      split <;> rfl
    have hrx : ((s.drainChunk s.rx.drainLeft).withCounters x y z).rx = (s.drainChunk s.rx.drainLeft).rx := rfl
    rw [hd]
    simp only [Option.getD_some, hrx]
    split <;> exact ⟨x, y, z, rfl⟩
  all_goals exact still

theorem State.settle_withCounters : SameButCounters s.settle (s.withCounters x y z).settle := by
  have hr : (s.withCounters x y z).rx = s.rx := rfl
  cases hl : s.rx.label <;> simp only [State.settle, hr, hl]
  case b1 => exact State.bodyB1_withCounters s x y z
  all_goals exact ⟨_, _, _, rfl⟩

theorem State.handlerComplete_withCounters :
    (s.withCounters x y z).handlerComplete = s.handlerComplete.withCounters x y z := by
  cases hi : s.rx.slot with
  | none => rw [State.handlerComplete_of_none hi, State.handlerComplete_of_none (s := s.withCounters x y z) hi]
  | some i =>
    rw [State.handlerComplete_of_some hi, State.handlerComplete_of_some (s := s.withCounters x y z) hi]
    rfl

end

theorem execOnNwpIrq_withCounters {s t : State} (h : execOnNwpIrq s = .next t) (x y z : Word) :
    ∃ u, execOnNwpIrq (s.withCounters x y z) = .next u ∧ SameButCounters t u := by
  have hr : (s.withCounters x y z).rx = s.rx := rfl
  have hirq : (s.withCounters x y z).irqEnabled = s.irqEnabled := rfl
  by_cases hloc : s.rx.label.reading = true ∧ s.rx.label ≠ .h2
  · obtain ⟨v, hv⟩ := State.locateStep_isSome hloc.1 hloc.2
    rw [execOnNwpIrq_locate hv] at h
    cases h
    have hv' : (s.withCounters x y z).locateStep = some (v.withCounters x y z) := by
      rw [State.locateStep_withCounters, hv]
      rfl
    exact ⟨_, execOnNwpIrq_locate hv', State.settle_withCounters v x y z⟩
  · cases hl : s.rx.label <;> simp only [execOnNwpIrq, hl] at h <;> simp [hl, RxLabel.reading] at hloc <;>
      simp only [execOnNwpIrq, hr, hl, hirq]
    case h0 =>
      cases he : s.irqEnabled <;> simp only [he, Bool.false_eq_true, if_true, if_false] at h ⊢ <;> cases h <;>
        exact ⟨_, rfl, x, y, z, rfl⟩
    case h2 => cases h; exact ⟨_, rfl, State.settle_withCounters s.handlerResolve x y z⟩
    case b2 | b3 | d1 => cases h; exact ⟨_, rfl, State.bodyStep_withCounters s x y z⟩
    case h4 => cases h; exact ⟨_, rfl, x, y, z, State.handlerComplete_withCounters s x y z⟩
    case h5 => cases h; exact ⟨_, rfl, x, y, z, rfl⟩
    all_goals cases h; exact ⟨_, rfl, State.settle_withCounters s x y z⟩

section
variable (s : State) (x y z : Word)

theorem State.sendFromMemory_withCounters (a : Agent) (addr n : Nat) (pad : List Byte) :
    (s.withCounters x y z).sendFromMemory a addr n pad =
      (s.sendFromMemory a addr n pad).map (·.withCounters x y z) := by
  have hc : (s.withCounters x y z).cfg = s.cfg := rfl
  unfold State.sendFromMemory
  rw [hc]
  split <;> rfl

theorem State.writeSegment_withCounters (p : Port) (r : Request) (l : WriteLabel) :
    (s.withCounters x y z).writeSegment p r l = (s.writeSegment p r l).withCounters x y z := by
  unfold State.writeSegment
  dsimp only
  split
  · rw [State.sendFromMemory_withCounters]
    cases s.sendFromMemory (.port p) (r.segmentAt l).base.toNat (r.segmentAt l).len.toNat (r.segmentAt l).padding <;> rfl
  · rfl

theorem State.writeStep_withCounters (p : Port) (r : Request) :
    (s.withCounters x y z).writeStep p r = (s.writeStep p r).map (mapNext (·.withCounters x y z)) := by
  have hp : (s.withCounters x y z).port p = s.port p := rfl
  cases hl : (s.port p).wlabel <;>
    simp only [State.writeStep, hp, hl, State.writeSegment_withCounters, Option.map_some, Option.map_none, mapNext]
  case w1 => split <;> rfl
  case w2 => rfl

theorem State.insertRequest_withCounters (p : Port) (e : Entry) :
    (s.withCounters x y z).insertRequest p e = (s.insertRequest p e).map (·.withCounters x y z) := by
  have hf : (s.withCounters x y z).freeSlot = s.freeSlot := rfl
  cases hi : s.freeSlot with
  | none =>
    rw [State.insertRequest_of_full hi, State.insertRequest_of_full (hf.trans hi)]
    rfl
  | some i =>
    rw [State.insertRequest_of_free hi, State.insertRequest_of_free (hf.trans hi)]
    rfl

theorem State.sendStep_withCounters (p : Port) (r : Request) :
    (s.withCounters x y z).sendStep p r = mapNext (·.withCounters x y z) (s.sendStep p r) := by
  have hp : (s.withCounters x y z).port p = s.port p := rfl
  cases hph : (s.port p).phase <;> simp only [State.sendStep, hp, hph]
  case registering =>
    simp only [State.sendRegister, State.insertRequest_withCounters]
    cases s.insertRequest p r.entry <;> rfl
  case writing =>
    rw [State.writeStep_withCounters]
    cases s.writeStep p r <;> rfl
  case waiting => split <;> rfl
  all_goals rfl

theorem execSendCommand_withCounters (e : Bool) (o : Half) :
    execSendCommand e o (s.withCounters x y z) = mapNext (·.withCounters x y z) (execSendCommand e o s) := by
  have hm : (s.withCounters x y z).nextMove = s.nextMove := rfl
  have hp (p : Port) : (s.withCounters x y z).hasPort p = s.hasPort p := rfl
  cases hmove : s.nextMove <;> simp only [execSendCommand, hm, hmove, hp]
  case port p =>
    split
    · exact State.sendStep_withCounters s x y z p _
    · rfl
  all_goals rfl

theorem execPowerOn_withCounters :
    execPowerOn (s.withCounters x y z) = mapNext (·.withCounters x y z) (execPowerOn s) := by
  have hw : (s.withCounters x y z).pwr = s.pwr := rfl
  have hd : (s.withCounters x y z).drawnPort = s.drawnPort := rfl
  have hp (p : Port) : (s.withCounters x y z).port p = s.port p := rfl
  have hc : (s.withCounters x y z).cfg = s.cfg := rfl
  cases hl : s.pwr.step <;> simp only [execPowerOn, hw, hl, hd, hp, hc]
  case idle =>
    split
    · split <;> rfl
    · rfl
  case pon5 =>
    rw [State.insertRequest_withCounters]
    cases s.insertRequest s.pwr.port (initCompleteEntry s.cfg) <;> rfl
  case pon6 => split <;> rfl
  all_goals rfl

theorem execPowerOff_withCounters :
    execPowerOff (s.withCounters x y z) = mapNext (·.withCounters x y z) (execPowerOff s) := by
  have hw : (s.withCounters x y z).pwr = s.pwr := rfl
  have hd : (s.withCounters x y z).drawnPort = s.drawnPort := rfl
  have hp (p : Port) : (s.withCounters x y z).port p = s.port p := rfl
  have hc : (s.withCounters x y z).cfg = s.cfg := rfl
  cases hl : s.pwr.step <;> simp only [execPowerOff, hw, hl, hd, hp, hc]
  case idle =>
    split
    · split <;> rfl
    · rfl
  case pof2 | pof3 => split <;> rfl
  all_goals rfl

end

theorem SameButCounters.of_mapNext {o : Host.Outcome State Fault Refusal} {t : State} (h : o = .next t) (x y z : Word) :
    ∃ u, mapNext (·.withCounters x y z) o = .next u ∧ SameButCounters t u :=
  ⟨_, by rw [h]; rfl, x, y, z, rfl⟩

theorem decodeCtrlWord_ne_submit (w : Word) (p : Port) (v : Word) : decodeCtrlWord w ≠ .submit p v := by
  obtain ⟨-, hd⟩ | ⟨-, -, -, hd⟩ | ⟨-, -, -, hd⟩ | ⟨-, -, -, hd⟩ := decodeCtrlWord_cases w <;> simp [hd]

/-- The operation of a move that is no host access, from a state with other counters. -/
theorem exec_fetched_withCounters {s t : State} {i : Instr} (hh : ∀ h, s.nextMove ≠ .host h) (hf : s.fetch = some i)
    (h : exec i s = .next t) (x y z : Word) :
    ∃ u, exec i (s.withCounters x y z) = .next u ∧ SameButCounters t u := by
  obtain ⟨-, rfl⟩ | ⟨w, rfl⟩ | ⟨p, v, rfl⟩ := State.fetch_cases hf
  · exact execOnNwpIrq_withCounters h x y z
  · have hc : s.ctrlWritePort = none := State.ctrlWritePort_none fun a v => hh _
    obtain ⟨-, hd⟩ | ⟨-, -, -, hd⟩ | ⟨-, -, -, hd⟩ | ⟨-, -, -, hd⟩ := decodeCtrlWord_cases w <;> rw [hd] at h ⊢
    · have hs : execIllegal w s = .next t := h
      rw [execIllegal_none hc] at hs
      cases hs
      exact ⟨_, execIllegal_none (s := s.withCounters x y z) hc w, x, y, z, rfl⟩
    · obtain ⟨u, hu, hsame⟩ := SameButCounters.of_mapNext h x y z
      exact ⟨u, (execSendCommand_withCounters s x y z _ _).trans hu, hsame⟩
    · obtain ⟨u, hu, hsame⟩ := SameButCounters.of_mapNext h x y z
      exact ⟨u, (execPowerOn_withCounters s x y z).trans hu, hsame⟩
    · obtain ⟨u, hu, hsame⟩ := SameButCounters.of_mapNext h x y z
      exact ⟨u, (execPowerOff_withCounters s x y z).trans hu, hsame⟩
  · cases hm : s.nextMove <;> simp only [State.fetch, hm] at hf
    case port q => exact absurd (State.portOperation_eq_decode hf).symm (decodeCtrlWord_ne_submit _ p v)
    case sequencer =>
      obtain ⟨w, hw⟩ := State.sequencerOperation_eq_decode hf
      exact absurd hw.symm (decodeCtrlWord_ne_submit w p v)
    case host m => exact absurd hm (hh m)
    all_goals cases hf

theorem State.finish_withCounters {s : State} (hh : ∀ h, s.nextMove ≠ .host h) (u : State) (x y z : Word) :
    (s.withCounters x y z).finish u = s.finish u := by
  have hm : (s.withCounters x y z).nextMove = s.nextMove := rfl
  have hevents : (s.withCounters x y z).moveEvents = s.moveEvents := by
    cases hmove : s.nextMove <;> simp only [State.moveEvents, hm, hmove]
    case host m => exact absurd hmove (hh m)
    case env => rfl
  rw [State.finish, State.finish, hevents]

theorem State.plainMove_withCounters {s t : State} (hh : ∀ h, s.nextMove ≠ .host h) (h : s.plainMove = .next t)
    (x y z : Word) : (s.withCounters x y z).plainMove = .next (t.withCounters x y z) := by
  have hm : (s.withCounters x y z).nextMove = s.nextMove := rfl
  cases hmove : s.nextMove <;> simp only [State.plainMove, hm, hmove] at h ⊢
  case host m => exact absurd hmove (hh m)
  case env e => cases h; cases e <;> rfl
  all_goals cases h; rfl

/-- Settles O51: no operation of an agent and no environment move reads a counter. -/
theorem countersDoNotMatter : Obligations.CountersDoNotMatter := by
  intro s t x y z hh hstep
  obtain ⟨v, rfl, hv⟩ := step_next hstep
  have hf : (s.withCounters x y z).fetch = s.fetch := rfl
  obtain ⟨u, hu, x', y', z', rfl⟩ : ∃ u, step (s.withCounters x y z) = .next (s.finish u) ∧ SameButCounters v u := by
    obtain ⟨i, hi, hv⟩ | ⟨hi, hv⟩ := hv
    · obtain ⟨u, hu, hsame⟩ := exec_fetched_withCounters hh hi hv x y z
      exact ⟨u, by rw [step_of_fetch (hf.trans hi) hu, State.finish_withCounters hh], hsame⟩
    · refine ⟨v.withCounters x y z, ?_, x, y, z, rfl⟩
      simp only [step, hf.trans hi, State.plainMove_withCounters hh hv, mapNext, State.finish_withCounters hh]
  exact ⟨_, hu, rfl⟩

/-! ## Other bytes -/

/-- The same state with other bytes where a body step moves bytes: the stream, host memory, the history and the scratch
buffer. -/
def State.withBytes (s : State) (inbound : List Byte) (mem : Memory) (history : List Event) (scratch : List Byte) : State :=
  { s with inbound := inbound, mem := mem, history := history, rx := { s.rx with scratch := scratch } }

section
variable (s : State) (i : List Byte) (m : Memory) (h : List Event) (c : List Byte)

theorem State.thenDrain_withBytes (n : Nat) : (s.withBytes i m h c).thenDrain n = (s.thenDrain n).withBytes i m h c := by
  unfold State.thenDrain
  split <;> rfl

theorem State.bodyB4_withBytes : (s.withBytes i m h c).bodyB4 = s.bodyB4.withBytes i m h c := by
  have hr : (s.withBytes i m h c).rx.rem = s.rx.rem := rfl
  by_cases h0 : s.rx.rem = 0
  · rw [State.bodyB4, State.bodyB4, hr, if_pos h0, if_pos h0]
    rfl
  · rw [State.bodyB4, State.bodyB4, hr, if_neg h0, if_neg h0]
    exact State.thenDrain_withBytes { s with cntOverflow := s.cntOverflow + 1#32 } i m h c _

theorem State.bodyB3_withBytes (e : Entry) : (s.withBytes i m h c).bodyB3 e = (s.bodyB3 e).withBytes i m h c := by
  have hr : (s.withBytes i m h c).rx.rem = s.rx.rem := rfl
  by_cases h0 : payloadRead e s.rx.rem = 0
  · rw [State.bodyB3, State.bodyB3, hr, if_pos h0, if_pos h0]
    exact State.bodyB4_withBytes { s with rx := { s.rx with rem := afterPayload e s.rx.rem } } i m h c
  · rw [State.bodyB3, State.bodyB3, hr, if_neg h0, if_neg h0]
    rfl

end

/-- A read into a host buffer on another stream. -/
theorem State.readToMemory_withInbound (s : State) (other : List Byte) (addr n : Nat) :
    (s.readToMemory addr n = none ∧ ({ s with inbound := other } : State).readToMemory addr n = none) ∨
      ∃ t i h bytes, s.readToMemory addr n = some t ∧ admitted s.cfg addr n = true ∧ bytes.length = n ∧
        ({ s with inbound := other } : State).readToMemory addr n =
          some (t.withBytes i (s.mem.write addr bytes) h s.rx.scratch) := by
  cases ha : admitted s.cfg addr n with
  | true =>
    refine .inr ⟨_, _, _, ({ s with inbound := other } : State).streamBytes n, if_pos ha, rfl,
      State.length_streamBytes .., if_pos ha⟩
  | false => exact .inl ⟨if_neg (by simp [ha]), if_neg (by simp [ha])⟩

/-- What host memory may be after a body step on any stream. -/
def State.storedMemory (s : State) (m : Memory) : Prop :=
  m = s.mem ∨ ∃ j addr n bytes, s.storesAt j addr n ∧ admitted s.cfg addr n = true ∧ bytes.length = n ∧
    m = s.mem.write addr bytes

/-- A body step on another stream differs in the bytes it moves, in host memory in what it stores. -/
theorem State.bodyStep_withInbound {s : State} (hl : s.rx.label = .b2 ∨ s.rx.label = .b3 ∨ s.rx.label = .d1)
    (other : List Byte) : ∃ i m h c, s.storedMemory m ∧
      ({ s with inbound := other } : State).bodyStep.getD { s with inbound := other } =
        (s.bodyStep.getD s).withBytes i m h c := by
  generalize hv : ({ s with inbound := other } : State) = v
  have still : ∃ i m h c, s.storedMemory m ∧ v = s.withBytes i m h c := by
    subst hv
    exact ⟨other, s.mem, s.history, s.rx.scratch, .inl rfl, rfl⟩
  have hrx : v.rx = s.rx := by rw [← hv]
  have hs (j : SlotIx) : v.slot j = s.slot j := by rw [← hv]; rfl
  have hread := s.readToMemory_withInbound other
  rw [hv] at hread
  obtain hl | hl | hl := hl
  · cases hi : s.rx.slot with
    | none =>
      rw [State.bodyStep_no_slot (.inl hl) hi, State.bodyStep_no_slot (.inl (hrx ▸ hl)) (hrx ▸ hi)]
      exact still
    | some j =>
      rw [State.bodyStep_b2 hl hi, State.bodyStep_b2 (hrx ▸ hl) (hrx ▸ hi), hs]
      obtain ⟨h1, h2⟩ | ⟨t, i, h, bytes, h1, ha, hlen, h2⟩ :=
        hread (s.slot j).entry.dbase.toNat (s.slot j).entry.dcap.toNat
      · rw [h1, h2]
        exact still
      · rw [h1, h2]
        exact ⟨_, _, _, _, .inr ⟨j, _, _, bytes, ⟨hi, .inl ⟨hl, rfl, rfl⟩⟩, ha, hlen, rfl⟩,
          State.bodyB3_withBytes t i _ h _ _⟩
  · cases hi : s.rx.slot with
    | none =>
      rw [State.bodyStep_no_slot (.inr hl) hi, State.bodyStep_no_slot (.inr (hrx ▸ hl)) (hrx ▸ hi)]
      exact still
    | some j =>
      rw [State.bodyStep_b3 hl hi, State.bodyStep_b3 (hrx ▸ hl) (hrx ▸ hi), hs, hrx]
      obtain ⟨h1, h2⟩ | ⟨t, i, h, bytes, h1, ha, hlen, h2⟩ :=
        hread (s.slot j).entry.pbase.toNat (payloadRead (s.slot j).entry s.rx.rem)
      · rw [h1, h2]
        exact still
      · rw [h1, h2]
        exact ⟨_, _, _, _, .inr ⟨j, _, _, bytes, ⟨hi, .inr ⟨hl, rfl, rfl⟩⟩, ha, hlen, rfl⟩,
          State.bodyB4_withBytes { t with rx := { t.rx with rem := _ } } i _ h _⟩
  · obtain ⟨i, h, c, hd⟩ : ∃ i h c, v.drainChunk s.rx.drainLeft = (s.drainChunk s.rx.drainLeft).withBytes i s.mem h c := by
      subst hv
      unfold State.drainChunk
      split
      · exact ⟨_, _, _, rfl⟩
      · exact ⟨_, _, _, rfl⟩
    rw [State.bodyStep_d1 hl, State.bodyStep_d1 (hrx ▸ hl), hrx, hd]
    have hleft : ((s.drainChunk s.rx.drainLeft).withBytes i s.mem h c).rx.drainLeft =
        (s.drainChunk s.rx.drainLeft).rx.drainLeft := rfl
    simp only [Option.getD_some, hleft]
    split <;> exact ⟨i, s.mem, h, c, .inl rfl, rfl⟩

/-- Host memory outside the buffer of the step, whatever the step stored. -/
theorem State.storedMemory.get {s : State} {m : Memory} (h : s.storedMemory m) (hwf : s.mem.wf = true) {a : Nat}
    (hout : ∀ j addr n, s.storesAt j addr n → a < addr ∨ addr + n ≤ a) : m.get a = s.mem.get a := by
  obtain rfl | ⟨j, addr, n, bytes, hat, hadm, hlen, rfl⟩ := h
  · rfl
  · exact Memory.get_write_admitted hwf hadm hlen (hout j addr n hat)

theorem State.storedMemory.of_d1 {s : State} {m : Memory} (h : s.storedMemory m) (hl : s.rx.label = .d1) : m = s.mem := by
  obtain rfl | ⟨j, addr, n, bytes, ⟨-, ⟨h2, -⟩ | ⟨h3, -⟩⟩, -⟩ := h
  · rfl
  · simp [hl] at h2
  · simp [hl] at h3

theorem State.storedMemory_bodyStep {s : State} (h1 : s.rx.label ≠ .b1) : s.storedMemory (s.bodyStep.getD s).mem := by
  obtain h | ⟨j, addr, n, hat, hadm, h⟩ := (State.bodyStep_cases h1).mem_cases
  · exact .inl h
  · exact .inr ⟨j, addr, n, _, hat, hadm, s.length_streamBytes n, h⟩

/-- Settles O52: the two runs of a body step store to the same buffer, each its own bytes. -/
theorem responseContentsIgnored : Obligations.ResponseContentsIgnored := by
  intro s t other hl hm hstep
  have h1 : s.rx.label ≠ .b1 := by rintro h; simp [h] at hl
  rw [step_of_fetch (State.fetch_rx hm) (execOnNwpIrq_body hl)] at hstep
  cases hstep
  obtain ⟨i, m, h, c, hstored, heq⟩ := State.bodyStep_withInbound hl other
  have hown := State.storedMemory_bodyStep h1
  refine ⟨_, step_of_fetch (s := { s with inbound := other }) (State.fetch_rx hm) (execOnNwpIrq_body hl), ?_⟩
  rw [heq]
  refine ⟨rfl, fun hd => ?_, fun hwf j a hj => ⟨fun h2 hout => ?_, fun h3 hout => ?_⟩⟩
  · exact (hstored.of_d1 hd).trans (hown.of_d1 hd).symm
  · have outside (k : SlotIx) (addr n : Nat) (hat : s.storesAt k addr n) : a < addr ∨ addr + n ≤ a := by
      obtain ⟨hk, ⟨-, rfl, rfl⟩ | ⟨h3, -⟩⟩ := hat
      · obtain rfl : j = k := Option.some.inj (hj.symm.trans hk)
        exact hout
      · simp [h2] at h3
    exact (hstored.get hwf outside).trans (hown.get hwf outside).symm
  · have outside (k : SlotIx) (addr n : Nat) (hat : s.storesAt k addr n) : a < addr ∨ addr + n ≤ a := by
      obtain ⟨hk, ⟨h2, -⟩ | ⟨-, rfl, rfl⟩⟩ := hat
      · simp [h3] at h2
      · obtain rfl : j = k := Option.some.inj (hj.symm.trans hk)
        exact hout
    exact (hstored.get hwf outside).trans (hown.get hwf outside).symm

end Sys2Proof.Machine

/-! One step of each operation: the table's, the dispatcher's, the sequencer's and the handler's (43_pending_table.md,
44_dispatcher.md, 45_receive_handler.md and 46_power_sequencer.md). -/

namespace Sys2Proof.Machine

/-! ## The Pending-Request Table -/

theorem execRegister_of_free {s : State} {p : Port} {i : SlotIx} (hp : s.hasPort p = true) (hi : s.freeSlot = some i)
    (e : Entry) : execRegister p e s = .next
      ((s.setSlot i { valid := true, entry := e, owner := p }).setPort p { s.port p with respDone := false }) := by
  rw [execRegister, if_pos hp, State.insertRequest_of_free hi]
  rfl

theorem execRegister_of_full {s : State} (hi : s.freeSlot = none) (p : Port) (e : Entry) :
    execRegister p e s = .next s := by
  rw [execRegister, State.insertRequest_of_full hi]
  split <;> rfl

/-- Settles O21. -/
theorem registerTakesLeastFreeSlot : Obligations.RegisterTakesLeastFreeSlot := fun _ p e hp =>
  ⟨fun _ hi hlt => execRegister_of_free hp (State.freeSlot_eq_some hi hlt) e,
    fun hfull => execRegister_of_full (State.freeSlot_eq_none hfull) p e⟩

/-- Settles O22: RESOLVE answers a draw from the matching slots. -/
theorem resolveDrawsAMatch : Obligations.ResolveDrawsAMatch := by
  intro s op
  refine ⟨⟨s.resolveSlot op, rfl, fun i hi => State.resolveSlot_some hi, fun hn i hv ho =>
    State.resolveSlot_none hn i ⟨hv, ho⟩⟩, fun i hv ho => ?_⟩
  obtain ⟨d, hd⟩ := exists_choose (State.mem_matching.mpr ⟨hv, ho⟩)
  exact ⟨d, _, rfl, hd⟩

/-- Settles O23. -/
theorem removeFreesSlot : Obligations.RemoveFreesSlot := by
  intro s i hv
  refine ⟨s.removeSlot i, rfl, State.slot_setSlot_self .., fun j hne => State.slot_setSlot_ne _ _ (Ne.symm hne), ?_, rfl⟩
  rw [State.ptCount_eq, State.ptCount_eq, State.slot_removeSlot, State.slot_removeSlot]
  fin_cases i <;> simp_all [Slot.free, Nat.add_comm]

/-! ## Submission and completion -/

theorem exec_submit {s : State} {p : Port} (hp : s.hasPort p = true) (v : Word) :
    exec (.submit p v) s = .next (s.submit p v) := if_pos hp

/-- Settles O25. -/
theorem submitAcceptsOrStores : Obligations.SubmitAcceptsOrStores := by
  intro s p v hp r
  rw [exec_submit hp]
  refine ⟨fun hb => ⟨fun e o hd => ?_, fun hd => ?_, fun hd => ?_⟩, fun hb => ?_⟩
  · rw [State.submit_send hb hd]
  · rw [State.submit_power hb hd]
  · rw [State.submit_illegal hb hd]
  · rw [State.submit_busy v hb]

/-- The CTRL registers of two ports have different addresses. -/
theorem State.ctrlWritePort_of_write {s : State} {p : Port} {addr w : Word} (hp : s.hasPort p = true)
    (hm : s.nextMove = .host (.write addr .word w)) (ha : addr.toNat = s.cfg.base.toNat + 0x40 * p.val) :
    s.ctrlWritePort = some p := by
  cases hc : s.ctrlWritePort with
  | some q =>
    obtain ⟨-, a, v, hm', ha'⟩ := State.ctrlWritePort_spec hc
    rw [hm] at hm'
    cases hm'
    rw [show q = p from Fin.ext (by omega)]
  | none =>
    exfalso
    simp only [State.ctrlWritePort, hm, List.find?_eq_none] at hc
    exact hc p (Port.mem_all p) (by simp [hp, ha])

/-- Settles O26: a CTRL write of an illegal word is its submission. -/
theorem illegalCompletesAtOnce : Obligations.IllegalCompletesAtOnce := by
  intro s p w addr hi hp hm ha
  have hsubmit : exec (.illegal w) s = .next (s.submit p w) :=
    illegal_eq_submit (State.ctrlWritePort_of_write hp hm ha) hi
  rw [hsubmit, exec_submit hp]
  refine ⟨rfl, fun hb => ?_, fun hb => ?_⟩
  · rw [State.submit_illegal hb ((decodeCtrlWord_eq_illegal_iff w).mpr hi)]
  · rw [State.submit_busy w hb]

theorem exec_complete {s : State} {p : Port} (hp : s.hasPort p = true) (r : Result) :
    exec (.complete p r) s = .next (s.completePort p r) := if_pos hp

/-- Settles O27. -/
theorem completeEndsOperation : Obligations.CompleteEndsOperation := fun _ _ r hp =>
  ⟨_, exec_complete hp r, State.port_setPort_self .., fun _ hne => State.port_setPort_ne _ _ (Ne.symm hne), rfl⟩

/-! ## SEND_COMMAND's waits -/

theorem State.sendStep_waiting {s : State} {p : Port} (hph : (s.port p).phase = .waiting) (r : Request) :
    s.sendStep p r = if (s.port p).respDone then .next (s.completePort p .ok) else .next s := by
  simp only [State.sendStep, hph]

theorem State.sendStep_registering {s : State} {p : Port} (hph : (s.port p).phase = .registering) (r : Request) :
    s.sendStep p r = .next (s.sendRegister p r) := by
  simp only [State.sendStep, hph]

/-- Settles O28. -/
theorem sendWaits : Obligations.SendWaits := by
  intro s p e o hm hp
  have hexec : exec (.sendCommand e o) s = s.sendStep p { (s.port p).req with exp := e, cmdOpcode := o } :=
    execSendCommand_port hm hp e o
  refine ⟨fun hph hd => ?_, fun hph hd => repeatExec_of_still ?_, fun hph hfull => repeatExec_of_still ?_⟩ <;> rw [hexec]
  · rw [State.sendStep_waiting hph, if_pos hd]
    rfl
  · rw [State.sendStep_waiting hph, if_neg (by simp [hd])]
  · rw [State.sendStep_registering hph, State.sendRegister_of_full (State.freeSlot_eq_none hfull)]

/-! ## The interrupt and H4 -/

theorem execOnNwpIrq_h5 {s : State} (hl : s.rx.label = .h5) : execOnNwpIrq s = .next s.returnFromIrq := by
  simp only [execOnNwpIrq, hl]

theorem execOnNwpIrq_h0_enabled {s : State} (hl : s.rx.label = .h0) (he : s.irqEnabled = true) :
    execOnNwpIrq s = .next s.takeIrq := by
  simp only [execOnNwpIrq, hl, he, if_true]

/-- Settles O31. -/
theorem irqEntryAndReturn : Obligations.IrqEntryAndReturn := by
  refine ⟨fun s hl => ⟨fun hp hm hph => execOnNwpIrq_h0_enabled hl (by simp [State.irqEnabled, hp, hm, hph]),
    fun hno => execOnNwpIrq_h0_disabled hl ?_⟩, fun s hl => execOnNwpIrq_h5 hl⟩
  obtain hp | hm | hph := hno
  · simp [State.irqEnabled, hp]
  · simp [State.irqEnabled, hm]
  · simp [State.irqEnabled, hph]

/-- Settles O32. -/
theorem handlerCompletesOwner : Obligations.HandlerCompletesOwner := by
  intro s i hl hi
  have h : exec .onNwpIrq s = .next s.handlerComplete := execOnNwpIrq_h4 hl
  rw [h, State.handlerComplete_of_some hi]
  rfl

/-! ## The sequencer -/

theorem repeatExec_succ {i : Instr} {s t : State} (h : exec i s = .next t) (n : Nat) :
    repeatExec i (n + 1) s = repeatExec i n t := by
  rw [repeatExec, h]

theorem repeatExec_add {i : Instr} {m : Nat} {s t : State} (h : repeatExec i m s = .next t) (n : Nat) :
    repeatExec i (m + n) s = repeatExec i n t := by
  induction m generalizing s with
  | zero =>
    cases h
    rw [Nat.zero_add]
  | succ m ih =>
    rw [repeatExec] at h
    split at h
    · next u hu => rw [Nat.add_right_comm, repeatExec_succ hu, ih h]
    · cases h
    · cases h

theorem execPowerOn_idle {s : State} {q : Port} (hl : s.pwr.step = .idle) (hq : s.drawnPort = some q)
    (hop : (s.port q).req.op = 2#4) : execPowerOn s = .next (s.popDraw.pon1 q) := by
  simp only [execPowerOn, hl, hq, hop, if_true]

theorem execPowerOn_pon5 {s : State} {i : SlotIx} (hl : s.pwr.step = .pon5) (hi : s.freeSlot = some i) :
    execPowerOn s = .next (((s.setSlot i { valid := true, entry := initCompleteEntry s.cfg, owner := s.pwr.port }).setPort
      s.pwr.port { s.port s.pwr.port with respDone := false }).pseqTo .pon6) := by
  simp only [execPowerOn, hl, State.insertRequest_of_free hi]

/-- States that agree but for the history are equal where their histories are. -/
theorem State.eq_of_history {s t : State} (hs : s = { t with history := s.history }) (hh : s.history = t.history) :
    s = t := by
  rw [hs, hh]

theorem execPowerOn_pon2 {s : State} (hl : s.pwr.step = .pon2) : exec .powerOn s = .next { s with
    pwr := { s.pwr with hostAck := false, step := .pon3 }, history := s.history ++ [.pulse .hostAckClr] } := by
  change execPowerOn s = _
  simp only [execPowerOn, hl]
  rfl

theorem execPowerOn_pon3 {s : State} (hl : s.pwr.step = .pon3) : exec .powerOn s = .next { s with
    pwr := { s.pwr with step := .pon4 }, history := s.history ++ [.pulse .wakeReq] } := by
  change execPowerOn s = _
  simp only [execPowerOn, hl]
  rfl

theorem execPowerOn_pon4 {s : State} (hl : s.pwr.step = .pon4) : exec .powerOn s = .next { s with
    irqMask := false, pwr := { s.pwr with step := .pon5 }, history := s.history ++ [.level .irqMask false] } := by
  change execPowerOn s = _
  simp only [execPowerOn, hl]
  rfl

/-- Settles O36: the acceptance and the four labels behind it. -/
theorem powerOnRun : Obligations.PowerOnRun := by
  intro s q i hl hq hop hi hlt
  have h1 : exec .powerOn s = .next (s.popDraw.pon1 q) := execPowerOn_idle hl hq hop
  have h5 {u : State} (hu : u.pwr.step = .pon5) (hs : u.slots = s.slots) : exec .powerOn u = .next _ :=
    execPowerOn_pon5 hu (i := i) (State.freeSlot_eq_some (by rwa [State.slot_congr hs])
      fun j hj => by rw [State.slot_congr hs]; exact hlt j hj)
  rw [repeatExec_succ h1, repeatExec_succ (execPowerOn_pon2 rfl), repeatExec_succ (execPowerOn_pon3 rfl),
    repeatExec_succ (execPowerOn_pon4 rfl)]
  refine Eq.trans (repeatExec_succ (h5 (by rfl) (by rfl)) 0) (congrArg Host.Outcome.next (State.eq_of_history rfl ?_))
  simp [State.pon1]

theorem execPowerOff_idle {s : State} {q : Port} (hl : s.pwr.step = .idle) (hq : s.drawnPort = some q)
    (hop : (s.port q).req.op = 3#4) : exec .powerOff s = .next (s.popDraw.pof1 q) := by
  change execPowerOff s = _
  simp only [execPowerOff, hl, hq, hop, if_true]

theorem execPowerOff_pof2 {s : State} (hl : s.pwr.step = .pof2) :
    exec .powerOff s = .next (if s.pwr.oobAck then s.pseqTo .pof3 else s) := by
  change execPowerOff s = _
  simp only [execPowerOff, hl]
  split <;> rfl

theorem execPowerOff_pof3 {s : State} (hl : s.pwr.step = .pof3) :
    exec .powerOff s = .next (if s.pwr.wakeConfig = s.cfg.quiescedValue then s.pseqTo .pof4 else s) := by
  change execPowerOff s = _
  simp only [execPowerOff, hl]
  split <;> rfl

theorem execPowerOff_pof4 {s : State} (hl : s.pwr.step = .pof4) : exec .powerOff s = .next { s with
    pwr := { s.pwr with oobAck := false, step := .pof5 }, history := s.history ++ [.pulse .oobAckClr] } := by
  change execPowerOff s = _
  simp only [execPowerOff, hl]
  rfl

theorem execPowerOff_pof5 {s : State} (hl : s.pwr.step = .pof5) : exec .powerOff s = .next { s with
    irqMask := true, pwr := { s.pwr with step := .pof6 }, history := s.history ++ [.level .irqMask true] } := by
  change execPowerOff s = _
  simp only [execPowerOff, hl]
  rfl

theorem execPowerOff_pof7 {s : State} (hl : s.pwr.step = .pof7) : exec .powerOff s = .next { s with
    pwr := { s.pwr with stop := true, step := .pof8 }, history := s.history ++ [.level .stop true] } := by
  change execPowerOff s = _
  simp only [execPowerOff, hl]
  rfl

theorem execPowerOff_pof8 {s : State} (hl : s.pwr.step = .pof8) :
    exec .powerOff s = .next ((s.emit .settle).powerDone .off) := by
  change execPowerOff s = _
  simp only [execPowerOff, hl]

/-- POF1 to POF3, where neither POF2 nor POF3 waits. -/
theorem powerOff_to_pof4 {s : State} {q : Port} (hl : s.pwr.step = .idle) (hq : s.drawnPort = some q)
    (hop : (s.port q).req.op = 3#4) (hack : s.pwr.oobAck = true) (hwake : s.pwr.wakeConfig = s.cfg.quiescedValue) :
    repeatExec .powerOff 3 s = .next { s.popDraw with
      history := s.history ++ [.pulse .oobTrigger]
      pwr := { s.pwr with state := .poweringOff, port := q, step := .pof4 } } := by
  have h2 {u : State} (hu : u.pwr.step = .pof2) (ha : u.pwr.oobAck = s.pwr.oobAck) :
      exec .powerOff u = .next (u.pseqTo .pof3) := by
    rw [execPowerOff_pof2 hu, ha, if_pos hack]
  have h3 {u : State} (hu : u.pwr.step = .pof3) (hw : u.pwr.wakeConfig = s.pwr.wakeConfig) (hc : u.cfg = s.cfg) :
      exec .powerOff u = .next (u.pseqTo .pof4) := by
    rw [execPowerOff_pof3 hu, hw, hc, if_pos hwake]
  rw [repeatExec_succ (execPowerOff_idle hl hq hop)]
  exact Eq.trans (repeatExec_succ (h2 (by rfl) (by rfl)) 1) (repeatExec_succ (h3 (by rfl) (by rfl) (by rfl)) 0)

/-- POF4 to POF7: the acknowledgement is cleared, the line masked, the regulator lowered and STOP driven. -/
theorem powerOff_pof4_to_pof8 {s : State} (hl : s.pwr.step = .pof4) : repeatExec .powerOff 4 s = .next { s with
    irqMask := true
    history := s.history ++ [.pulse .oobAckClr, .level .irqMask true, .level .regMode true, .level .stop true]
    pwr := { s.pwr with oobAck := false, regMode := .lowPower, stop := true, step := .pof8 } } := by
  have h6 {u : State} (hu : u.pwr.step = .pof6) : exec .powerOff u = .next _ := execPowerOff_pof6 hu
  rw [repeatExec_succ (execPowerOff_pof4 hl), repeatExec_succ (execPowerOff_pof5 rfl), repeatExec_succ (h6 rfl),
    repeatExec_succ (execPowerOff_pof7 rfl), repeatExec]
  refine congrArg Host.Outcome.next (State.eq_of_history rfl ?_)
  simp

/-- Settles O37: the acceptance and the seven labels behind it. -/
theorem powerOffRun : Obligations.PowerOffRun := by
  intro s q hl hq hop hack hwake
  rw [show 8 = 3 + (4 + 1) from rfl, repeatExec_add (powerOff_to_pof4 hl hq hop hack hwake),
    repeatExec_add (powerOff_pof4_to_pof8 rfl), repeatExec_succ (execPowerOff_pof8 rfl), repeatExec]
  refine congrArg Host.Outcome.next (State.eq_of_history rfl ?_)
  simp [State.powerDone]

theorem execPowerOn_pon6 {s : State} (hl : s.pwr.step = .pon6) :
    exec .powerOn s = .next (if (s.port s.pwr.port).respDone then s.powerDone .on else s) := by
  change execPowerOn s = _
  simp only [execPowerOn, hl]
  split <;> rfl

theorem execPowerOn_pon5_full {s : State} (hl : s.pwr.step = .pon5) (hi : s.freeSlot = none) :
    exec .powerOn s = .next s := by
  change execPowerOn s = _
  simp only [execPowerOn, hl, State.insertRequest_of_full hi]

/-- Settles O38. -/
theorem sequencerWaits : Obligations.SequencerWaits := by
  refine fun s => ⟨fun hl hd => ?_, fun hl hd => repeatExec_of_still ?_, fun hl hfull => repeatExec_of_still ?_,
    fun hl ha => ?_, fun hl ha => repeatExec_of_still ?_, fun hl hw => ?_, fun hl hw => repeatExec_of_still ?_⟩
  · rw [execPowerOn_pon6 hl, if_pos hd]
    rfl
  · rw [execPowerOn_pon6 hl, if_neg (by simp [hd])]
  · exact execPowerOn_pon5_full hl (State.freeSlot_eq_none hfull)
  · rw [execPowerOff_pof2 hl, if_pos ha]
    rfl
  · rw [execPowerOff_pof2 hl, if_neg (by simp [ha])]
  · rw [execPowerOff_pof3 hl, if_pos hw]
    rfl
  · rw [execPowerOff_pof3 hl, if_neg hw]

theorem State.mem_powerPorts {s : State} {q : Port} :
    q ∈ s.powerPorts ↔ s.hasPort q = true ∧ (s.port q).phase = .power := by
  simp [State.powerPorts, Port.mem_all]

/-- Settles O39: the acceptance draws from the ports that wait. -/
theorem acceptanceDrawsAWaitingPort : Obligations.AcceptanceDrawsAWaitingPort := by
  refine fun s => ⟨fun q hq => State.drawnPort_some hq, fun hn q hp hph => ?_, fun q hp hph => ?_⟩
  · have hmem := State.mem_powerPorts.mpr ⟨hp, hph⟩
    rw [choose_eq_none hn] at hmem
    simp at hmem
  · exact exists_choose (State.mem_powerPorts.mpr ⟨hp, hph⟩)

end Sys2Proof.Machine

/-! Words on the wire, single steps of LOCATE and DRAIN, the register map, reset, and the step itself (30_encoding.md
section 3, 41_frame_sync.md section 3, 10_state.md section 8, 70_reset_and_hazards.md section 1). -/

namespace Sys2Proof.Machine

/-! ## Host-to-NWP words (30_encoding.md rules R115 to R117) -/

theorem execH2nSyncWord_port {s : State} {p : Port} (hm : s.nextMove = .port p) (hp : s.hasPort p = true) :
    exec .h2nSyncWord s = .next (s.transportWrite (.port p) (bytes32 h2nSyncValue)) := by
  change execH2nSyncWord s = _
  simp only [execH2nSyncWord, hm, hp, if_true]

theorem execH2nSyncWord_other {s : State} (h : ∀ p, s.nextMove = .port p → s.hasPort p = false) :
    exec .h2nSyncWord s = .next s := by
  change execH2nSyncWord s = _
  cases hm : s.nextMove with
  | port p => simp only [execH2nSyncWord, hm, h p hm, Bool.false_eq_true, if_false]
  | _ => simp only [execH2nSyncWord, hm]

/-- Settles O7: what goes out for a pattern record is its last four bytes. -/
theorem hostSyncWordsTransmitted : Obligations.HostSyncWordsTransmitted := by
  refine ⟨by decide, fun s => ⟨fun p hm hp => ?_, execH2nSyncWord_other, ?_⟩⟩
  · rw [execH2nSyncWord_port hm hp, ← SyncPattern.bytes32_wireValue]
    rfl
  · rw [← SyncPattern.bytes32_wireValue]
    rfl

/-! ## A word that answers a read -/

theorem State.streamBytes_answering (s : State) (bytes : List Byte) :
    (s.answering bytes).streamBytes bytes.length = bytes := by
  refine List.ext_getElem (by simp) fun i h1 h2 => ?_
  simp only [State.streamBytes, List.getElem_map, List.getElem_range, State.streamByte_answering s bytes h2]

/-- A read that is answered with just the bytes it takes leaves the listed stream as it was. -/
theorem State.transportRead_answering (s : State) (bytes : List Byte) :
    (s.answering bytes).transportRead bytes.length =
      { s with consumed := s.consumed + bytes.length, history := s.history ++ [.rx .rx bytes] } := by
  rw [State.transportRead, State.streamBytes_answering]
  simp only [State.consume, State.emit, State.answering, List.drop_left]

theorem execFrameHeader_port {s : State} {p : Port} (hm : s.nextMove = .port p) (o l : Half) :
    exec (.frameHeader o l) s =
      if s.hasPort p then .next (s.transportWrite (.port p) (bytes16 o ++ bytes16 l)) else .next s := by
  change execFrameHeader o l s = _
  simp only [execFrameHeader, hm]

theorem execFrameHeader_l11 {s : State} (hm : s.nextMove = .rx) (hl : s.rx.label = .l11) (o l : Half) :
    exec (.frameHeader o l) s = .next { s with
      consumed := s.consumed + 4
      history := s.history ++ [.rx .rx (bytes16 o ++ bytes16 l)]
      rx := { s.rx with
        window := s.rx.window.setHigh (bytes16 o ++ bytes16 l), label := if s.rx.m = 0 then .locOk else .l12 } } := by
  change execFrameHeader o l s = _
  have hread := s.transportRead_answering (bytes16 o ++ bytes16 l)
  have hbytes := s.streamBytes_answering (bytes16 o ++ bytes16 l)
  have hlen : (bytes16 o ++ bytes16 l).length = 4 := rfl
  rw [hlen] at hread hbytes
  simp only [execFrameHeader, hm, hl, if_true, State.locateL11, bytes32_headerValue, hread, hbytes]
  rfl

/-- Settles O9: W2's write in one direction, L11's read in the other. -/
theorem frameHeaderBothWays : Obligations.FrameHeaderBothWays := by
  intro s o l bytes
  refine ⟨fun p hm hp => ?_, fun p hm hp => ?_, fun hm hl => ?_⟩
  · rw [execFrameHeader_port hm, if_pos hp]
    rfl
  · rw [execFrameHeader_port hm, if_neg (by simp [hp])]
  · exact ⟨s.rx.window.setHigh bytes, le16_bytes16 o, le16_bytes16 l, rfl, execFrameHeader_l11 hm hl o l⟩

/-! ## Single steps of LOCATE and of DRAIN -/

/-- What a search may write. -/
theorem State.afterSearch_frame (s : State) (r : SearchEnd × Window × Nat) :
    s.afterSearch r = { s with txSeqNum := (s.afterSearch r).txSeqNum, rx := { s.rx with
      label := (s.afterSearch r).rx.label, window := (s.afterSearch r).rx.window, a := (s.afterSearch r).rx.a
      m := (s.afterSearch r).rx.m } } := by
  obtain ⟨e, w, a⟩ := r
  cases e with
  | found => simp only [State.afterSearch]; split <;> rfl
  | needsRead => rfl
  | timeout => rfl

/-- What the test of a word after a sync word may write. -/
theorem State.afterWord_frame (s : State) (w : Window) :
    s.afterWord w = { s with
      txSeqNum := (s.afterWord w).txSeqNum
      rx := { s.rx with
        label := (s.afterWord w).rx.label, window := (s.afterWord w).rx.window, a := (s.afterWord w).rx.a
        m := (s.afterWord w).rx.m } } := by
  unfold State.afterWord
  split <;> rfl

theorem State.locateStep_l1 {s : State} (hl : s.rx.label = .l1) : s.locateStep = some s.locateL1 := by
  simp only [State.locateStep, hl]
theorem State.locateStep_l2 {s : State} (hl : s.rx.label = .l2) : s.locateStep = some s.locateL2 := by
  simp only [State.locateStep, hl]
theorem State.locateStep_l4 {s : State} (hl : s.rx.label = .l4) : s.locateStep = some s.locateL4 := by
  simp only [State.locateStep, hl]
theorem State.locateStep_l8 {s : State} (hl : s.rx.label = .l8) : s.locateStep = some s.locateL8 := by
  simp only [State.locateStep, hl]
theorem State.locateStep_l9 {s : State} (hl : s.rx.label = .l9) : s.locateStep = some s.locateL9 := by
  simp only [State.locateStep, hl]
theorem State.locateStep_l10 {s : State} (hl : s.rx.label = .l10) : s.locateStep = some s.locateL10 := by
  simp only [State.locateStep, hl]
theorem State.locateStep_l11 {s : State} (hl : s.rx.label = .l11) : s.locateStep = some s.locateL11 := by
  simp only [State.locateStep, hl]
theorem State.locateStep_l12 {s : State} (hl : s.rx.label = .l12) : s.locateStep = some s.locateL12 := by
  simp only [State.locateStep, hl]

theorem exec_locate {s t : State} (h : s.locateStep = some t) : exec .locate s = .next t := by
  change execLocate s = _
  rw [execLocate, h]
  rfl

theorem h2nCnys_bytes : bytes32 h2nCnysValue = [0x65#8, 0x87#8, 0x78#8, 0x56#8] := by decide

theorem State.locateL1_eq (s : State) : s.locateL1 = { s with
    history := s.history ++ [.tx .rx [0x65#8, 0x87#8, 0x78#8, 0x56#8]], rx := { s.rx with label := .l2 } } := by
  rw [State.locateL1, h2nCnys_bytes]
  rfl

end Sys2Proof.Machine

namespace Sys2Proof

open Machine

/-- Settles O10: L1, then one read a label. -/
theorem locateSteps : Obligations.LocateSteps := by
  refine ⟨fun s hl => by rw [exec_locate (State.locateStep_l1 hl), State.locateL1_eq], fun s n hat => ?_⟩
  rw [State.streamAt_zero]
  obtain ⟨hl | hl | hl | hl | hl, rfl⟩ | ⟨hl, rfl⟩ | ⟨hl, rfl⟩ := hat
  · exact ⟨_, exec_locate (State.locateStep_l2 hl), State.afterSearch_frame (s.transportRead 4) _⟩
  · exact ⟨_, exec_locate (State.locateStep_l4 hl), State.afterSearch_frame (s.transportRead 4) _⟩
  · exact ⟨_, exec_locate (State.locateStep_l9 hl), State.afterWord_frame (s.transportRead 4) _⟩
  · exact ⟨_, exec_locate (State.locateStep_l10 hl), State.afterWord_frame (s.transportRead 4) _⟩
  · exact ⟨_, exec_locate (State.locateStep_l11 hl), rfl⟩
  · exact ⟨_, exec_locate (State.locateStep_l8 hl), State.afterWord_frame (s.transportRead s.rx.m.val) _⟩
  · exact ⟨_, exec_locate (State.locateStep_l12 hl), rfl⟩

end Sys2Proof

namespace Sys2Proof.Machine

theorem State.drainChunk_pos (s : State) {n : Nat} (hn : 0 < n) :
    s.drainChunk n = { s.transportRead (min n s.cfg.scratchBytes) with
      rx := { s.rx with
        drainLeft := n - min n s.cfg.scratchBytes
        scratch := s.streamBytes (min n s.cfg.scratchBytes) ++ s.rx.scratch.drop (min n s.cfg.scratchBytes) } } :=
  if_neg (Nat.pos_iff_ne_zero.mp hn)

/-- Settles O18. -/
theorem drainStep : Obligations.DrainStep := by
  refine fun s n => ⟨?_, fun hn => ⟨min n s.cfg.scratchBytes, ?_, ?_⟩⟩
  · rintro rfl
    rfl
  · split <;> omega
  · rw [State.streamAt_zero]
    exact congrArg Host.Outcome.next (s.drainChunk_pos hn)

/-! ## Registers (10_state.md rules R59 to R61) -/

/-- The port whose block a register stands in. -/
def Reg.port? (r : Reg) : Option Port :=
  match r with
  | .ctrl p | .expOpcode p | .seg0Base p | .seg0Len p | .seg1Base p | .seg1Len p | .seg2Base p | .seg2Len p
  | .rdescBase p | .rdescCap p | .rpayBase p | .rpayCap p | .status p | .statusClr p => some p
  | _ => none

/-- A write to one port's elements does not change what the registers of others, and the global ones, read. -/
theorem State.readReg_setPort_other (s : State) {p : Port} (x : PortState) {r : Reg} (h : r.port? ≠ some p) :
    (s.setPort p x).readReg r = s.readReg r := by
  have hne {q : Port} (hq : some q ≠ some p) : (s.setPort p x).port q = s.port q :=
    State.port_setPort_ne _ _ fun e => hq (congrArg some e.symm)
  cases r with
  | ctrl q | expOpcode q | seg0Base q | seg0Len q | seg1Base q | seg1Len q | seg2Base q | seg2Len q | rdescBase q
  | rdescCap q | rpayBase q | rpayCap q | status q | statusClr q => simp only [State.readReg, hne h]
  | _ => rfl

/-- Which part of a port's elements a register reads: a write that leaves that part alone leaves the register. -/
def Reg.sameIn (r : Reg) (x y : PortState) : Prop :=
  match r with
  | .ctrl _ => x.staging.op = y.staging.op ∧ x.staging.exp = y.staging.exp
      ∧ x.staging.cmdOpcode = y.staging.cmdOpcode ∧ x.rsv = y.rsv
  | .expOpcode _ => x.staging.expOpcode = y.staging.expOpcode
  | .seg0Base _ => x.staging.seg0.base = y.staging.seg0.base
  | .seg0Len _ => x.staging.seg0.len = y.staging.seg0.len ∧ x.staging.seg0.present = y.staging.seg0.present
  | .seg1Base _ => x.staging.seg1.base = y.staging.seg1.base
  | .seg1Len _ => x.staging.seg1.len = y.staging.seg1.len ∧ x.staging.seg1.present = y.staging.seg1.present
  | .seg2Base _ => x.staging.seg2.base = y.staging.seg2.base
  | .seg2Len _ => x.staging.seg2.len = y.staging.seg2.len ∧ x.staging.seg2.present = y.staging.seg2.present
  | .rdescBase _ => x.staging.rdescBase = y.staging.rdescBase
  | .rdescCap _ => x.staging.rdescCap = y.staging.rdescCap
  | .rpayBase _ => x.staging.rpayBase = y.staging.rpayBase
  | .rpayCap _ => x.staging.rpayCap = y.staging.rpayCap ∧ x.staging.rpayPresent = y.staging.rpayPresent
  | .status _ => x.busy = y.busy ∧ x.done = y.done ∧ x.result = y.result ∧ x.phase = y.phase
  | _ => True

theorem State.readReg_setPort (s : State) {p : Port} {x : PortState} {r : Reg}
    (h : r.port? = some p → r.sameIn x (s.port p)) : (s.setPort p x).readReg r = s.readReg r := by
  by_cases hr : r.port? = some p
  · have hsame := h hr
    cases r <;> simp only [Reg.port?, reduceCtorEq, Option.some.injEq] at hr <;> subst hr <;>
      simp only [Reg.sameIn] at hsame <;>
      simp only [State.readReg, State.port_setPort_self, PortState.ctrlReadback, PortState.statusWord, hsame]
  · exact s.readReg_setPort_other x hr

/-- A register write leaves every other register, but that STATUS_CLR acts on STATUS of its port. -/
theorem State.readReg_writeReg_other (s : State) {r r' : Reg} (v : Word) (hne : r' ≠ r)
    (hclr : ∀ q, r = .statusClr q → r' ≠ .status q) : (s.writeReg r v).readReg r' = s.readReg r' := by
  cases r with
  | expOpcode p | seg0Base p | seg0Len p | seg1Base p | seg1Len p | seg2Base p | seg2Len p | rdescBase p | rdescCap p
  | rpayBase p | rpayCap p =>
    refine State.readReg_setPort s fun hp => ?_
    cases r' <;> simp_all [Reg.sameIn, Reg.port?]
  | statusClr p =>
    simp only [State.writeReg]
    split
    · refine State.readReg_setPort s fun hp => ?_
      cases r' <;> simp_all [Reg.sameIn, Reg.port?]
    · rfl
  | gstatus =>
    simp only [State.writeReg]
    split
    · cases r' with
      | gstatus => contradiction
      | _ => rfl
    · rfl
  | _ => rfl

/-- A submission acts on CTRL and STATUS of its port only. -/
theorem State.readReg_submit_other (s : State) {p : Port} {r : Reg} (v : Word) (hc : r ≠ .ctrl p) (hs : r ≠ .status p) :
    (s.submit p v).readReg r = s.readReg r := by
  obtain ⟨x, hx, heq⟩ := s.submit_cases p v
  rw [heq]
  refine State.readReg_setPort s fun hp => ?_
  cases hx <;> cases r <;> simp_all [Reg.sameIn, Reg.port?, State.stagedWith]

theorem State.readReg_submit_ctrl (s : State) (p : Port) (v : Word) : (s.submit p v).readReg (.ctrl p) = v := by
  obtain ⟨x, hx, heq⟩ := s.submit_cases p v
  rw [heq, State.readReg, State.port_setPort_self]
  cases hx <;> exact ctrlWord_fields v

theorem mask_low (v : Word) (n : Nat) (i : Nat) :
    (v &&& BitVec.ofNat 32 (2 ^ n - 1)).getLsbD i = (decide (i < n) && v.getLsbD i) := by
  rw [BitVec.getLsbD_and, BitVec.getLsbD_ofNat, Nat.testBit_two_pow_sub_one]
  by_cases hi : i < 32
  · simp [hi, Bool.and_comm]
  · simp [v.getLsbD_of_ge i (by omega)]

theorem field_lowHalf (v : Word) : field (lowHalf v) 0 = v &&& 0x0000FFFF#32 := by
  refine BitVec.eq_of_getLsbD_eq fun i hi => ?_
  rw [show (0x0000FFFF#32 : Word) = BitVec.ofNat 32 (2 ^ 16 - 1) from rfl, mask_low]
  simp [field, lowHalf, hi]

theorem lenPresent_eq (v : Word) : lenPresent (lowHalf v) (v.getLsbD 16) = v &&& 0x0001FFFF#32 := by
  refine BitVec.eq_of_getLsbD_eq fun i hi => ?_
  rw [lenPresent, field_lowHalf, BitVec.getLsbD_or, show (0x0000FFFF#32 : Word) = BitVec.ofNat 32 (2 ^ 16 - 1) from rfl,
    show (0x0001FFFF#32 : Word) = BitVec.ofNat 32 (2 ^ 17 - 1) from rfl, mask_low, mask_low]
  obtain h | rfl | h := Nat.lt_trichotomy i 16
  · simp [bit, field, h, Nat.lt_succ_of_lt h]
  · simp [bit, field]
  · have h17 : ¬ i < 17 := by omega
    simp [bit, field, h17, Nat.not_lt.mpr h.le]
    omega

/-- Settles O53: what a write stores is read back, and it stores nothing else. -/
theorem registerWrites : Obligations.RegisterWrites := by
  intro s p v
  have hstage (r : Request) : ((s.stage p r).port p).staging = r := by rw [State.stage, State.port_setPort_self]
  refine ⟨s.readReg_submit_ctrl p v, ?_, ?_, ?_, ?_, ?_, rfl, rfl, rfl,
    fun r r' hne hclr => s.readReg_writeReg_other v hne hclr, fun r' hc hs => s.readReg_submit_other v hc hs⟩
  · simp only [State.writeReg, State.readReg, hstage, field_lowHalf]
  · intro r hr
    fin_cases hr <;> simp only [State.writeReg, State.readReg, hstage]
  · intro r hr
    fin_cases hr <;> simp only [State.writeReg, State.readReg, hstage, lenPresent_eq]
  · simp only [State.writeReg, State.readReg, hstage, field_lowHalf]
  · intro r hr
    fin_cases hr <;> rfl

end Sys2Proof.Machine

/-! The step around an operation: host accesses to the register range, environment moves, placed words, and reset
(10_state.md section 8, 20_memory.md sections 2 and 4, 70_reset_and_hazards.md section 1). -/

namespace Sys2Proof.Machine

/-! ## A host access to the register range (10_state.md rule R58) -/

theorem portReg_eq_ctrl {q p : Port} {off : Nat} : portReg q off = .ctrl p ↔ off = 0 ∧ q = p := by
  unfold portReg
  split
  · simp
  all_goals simp_all

theorem globalReg_ne_ctrl (off : Nat) (p : Port) : globalReg off ≠ .ctrl p := by
  unfold globalReg
  split <;> exact Reg.noConfusion

/-- CTRL of port p stands at 0x40·p, where the port exists. -/
theorem regAt_eq_ctrl {c : Params} (_ : c.numPorts ≤ 8) {off : Nat} {p : Port} :
    regAt c off = .ctrl p ↔ p.val < c.numPorts ∧ off = 0x40 * p.val := by
  have hp := p.isLt
  unfold regAt
  split
  · next hlow =>
    split
    · next hlt =>
      rw [portReg_eq_ctrl, Fin.ext_iff, Fin.val_ofNat]
      omega
    · next hge =>
      simp only [reduceCtorEq, false_iff]
      omega
  · next hhigh =>
    simp only [globalReg_ne_ctrl, false_iff]
    omega

theorem target_of_aligned {c : Params} {a : Word} {w : Width} (h1 : c.base.toNat < a.toNat + w.bytes)
    (h2 : a.toNat < c.base.toNat + 0x400) (ha : w = .word ∧ a.toNat % 4 = 0 ∧ c.base.toNat ≤ a.toNat) :
    target c a w = .register (regAt c (a.toNat - c.base.toNat)) := by
  obtain ⟨rfl, h4, hle⟩ := ha
  simp only [target, h1, h2, h4, hle, and_self, if_true]

theorem target_of_not_aligned {c : Params} {a : Word} {w : Width} (h1 : c.base.toNat < a.toNat + w.bytes)
    (h2 : a.toNat < c.base.toNat + 0x400) (ha : ¬(w = .word ∧ a.toNat % 4 = 0 ∧ c.base.toNat ≤ a.toNat)) :
    target c a w = .refused := by
  simp only [target, h1, h2, ha, and_self, if_true, if_false]

theorem Params.base_aligned {c : Params} (h : c.wf = true) : c.base.toNat % 0x400 = 0 := by
  simp only [Params.wf, Bool.and_eq_true, decide_eq_true_eq] at h
  exact h.1.2

theorem Params.numPorts_le {c : Params} (h : c.wf = true) : c.numPorts ≤ 8 := by
  simp only [Params.wf, Bool.and_eq_true, decide_eq_true_eq] at h
  omega

/-- The move of a step that is no operation of the opcode table. -/
theorem step_of_no_fetch {s : State} (hf : s.fetch = none) : step s = mapNext s.finish s.plainMove := by
  simp only [step, hf]

/-- A host write is a submission exactly where the address is that of a CTRL register. -/
theorem State.ctrlWritePort_iff {s : State} {addr v : Word} {p : Port} (hm : s.nextMove = .host (.write addr .word v)) :
    s.ctrlWritePort = some p ↔ s.hasPort p = true ∧ addr.toNat = s.cfg.base.toNat + 0x40 * p.val := by
  refine ⟨fun h => ?_, fun ⟨hp, ha⟩ => State.ctrlWritePort_of_write hp hm ha⟩
  obtain ⟨hp, a, x, hm', ha⟩ := State.ctrlWritePort_spec h
  rw [hm] at hm'
  cases hm'
  exact ⟨hp, ha⟩

theorem State.fetch_host_write {s : State} {addr v : Word} {w : Width} (hm : s.nextMove = .host (.write addr w v)) :
    s.fetch = s.ctrlWritePort.map fun p => ctrlWriteOperation p v := by
  simp only [State.fetch, hm]

theorem step_of_host_write {s : State} {addr v : Word} {w : Width} (hm : s.nextMove = .host (.write addr w v))
    (hc : s.ctrlWritePort = none) : step s = mapNext s.finish (s.hostStep (.write addr w v)) := by
  rw [step_of_no_fetch (by rw [State.fetch_host_write hm, hc]; rfl)]
  simp only [State.plainMove, hm]

theorem step_of_host_read {s : State} {addr : Word} {w : Width} (hm : s.nextMove = .host (.read addr w)) :
    step s = mapNext s.finish (s.hostStep (.read addr w)) := by
  rw [step_of_no_fetch (by simp only [State.fetch, hm])]
  simp only [State.plainMove, hm]

theorem State.finish_of_events {s u : State} {es : List Event} (h : s.moveEvents = es) :
    s.finish u = { u with history := u.history ++ es, moves := u.moves.tail, moveCount := u.moveCount + 1 } := by
  rw [State.finish, h]
  rfl

/-- Settles O54: a write is a submission exactly where its aligned address is that of a CTRL register. -/
theorem registerRangeAccess : Obligations.RegisterRangeAccess := by
  intro s addr w hwf h1 h2 reg aligned done
  have hbase := Params.base_aligned hwf
  refine ⟨fun hm => ⟨fun ha => ?_, fun ha => ?_⟩, fun v hm => ⟨fun ha => ?_, fun ha => ?_⟩⟩
  · simp only [step_of_host_read hm, State.hostStep, target_of_not_aligned h1 h2 ha, mapNext]
  · have hev : s.moveEvents = [.regRead addr (s.readReg reg)] := by
      simp only [State.moveEvents, hm, State.hostEvents, target_of_aligned h1 h2 ha, reg]
    simp only [step_of_host_read hm, State.hostStep, target_of_aligned h1 h2 ha, mapNext, State.finish_of_events hev, done]
  · have hnone : s.ctrlWritePort = none := by
      cases hc : s.ctrlWritePort with
      | none => rfl
      | some p =>
        obtain ⟨-, a, x, hm', hadr⟩ := State.ctrlWritePort_spec hc
        rw [hm] at hm'
        cases hm'
        exact absurd ⟨rfl, by omega, by omega⟩ ha
    simp only [step_of_host_write hm hnone, State.hostStep, target_of_not_aligned h1 h2 ha, mapNext]
  · have hev : s.moveEvents = [.regWrite addr v] := by
      simp only [State.moveEvents, hm, State.hostEvents, target_of_aligned h1 h2 ha]
    have hreg {p : Port} : reg = .ctrl p ↔ s.ctrlWritePort = some p := by
      obtain ⟨rfl, -, hle⟩ := ha
      rw [State.ctrlWritePort_iff hm, State.hasPort, decide_eq_true_eq]
      refine (regAt_eq_ctrl (Params.numPorts_le hwf)).trans (and_congr_right fun _ => ?_)
      omega
    refine ⟨fun p hp => ?_, fun hnot => ?_⟩
    · have hf : s.fetch = some (ctrlWriteOperation p v) := by rw [State.fetch_host_write hm, hreg.mp hp]; rfl
      rw [step_of_fetch hf (exec_ctrlWriteOperation (hreg.mp hp) v), State.finish_of_events hev]
    · have hnone : s.ctrlWritePort = none := Option.eq_none_iff_forall_ne_some.mpr fun p h => hnot p (hreg.mpr h)
      simp only [step_of_host_write hm hnone, State.hostStep, target_of_aligned h1 h2 ha, mapNext,
        State.finish_of_events hev, done, reg]

/-! ## The step, its moves, and a placed word -/

/-- Settles O56. -/
theorem stepRunsFetchedOperation : Obligations.StepRunsFetchedOperation := by
  refine fun s i hf => ⟨fun t ht => ?_, fun r hr => ?_⟩
  · rw [step_of_fetch hf ht]
    rfl
  · simp only [step, hf, hr, mapNext]

theorem step_of_env {s : State} {e : EnvMove} (hm : s.nextMove = .env e) :
    step s = .next { (s.envStep e).popMove with history := (s.envStep e).history ++ [.env (takenMove s.cfg e)] } := by
  rw [step_of_no_fetch (by simp only [State.fetch, hm])]
  simp only [State.plainMove, State.finish, State.moveEvents, hm, mapNext]

/-- Settles O58. -/
theorem environmentMoves : Obligations.EnvironmentMoves := by
  refine fun s => ⟨step_of_env, step_of_env, step_of_env, fun v hm => ?_⟩
  refine ⟨wakeValue s.cfg v, toNat_wakeValue s.cfg v, fun hv => ?_, step_of_env hm⟩
  exact BitVec.eq_of_toNat_eq (by rw [toNat_wakeValue, Nat.mod_eq_of_lt hv])

theorem choose_zero {α : Type} (x : α) (l : List α) : choose (x :: l) 0 = some x := by
  cases l with
  | nil => rfl
  | cons y t => simp [choose]

/-- The request that a legal word leaves has that word. -/
theorem State.word_stagedWith {s : State} {p : Port} {v : Word} (h : isIllegal v = false) :
    (s.stagedWith p v).word = v := by
  have hrsv : ctrlRsv v = 0#11 := by
    have hzero (h0 : v.extractLsb' 4 28 = 0#28) : ctrlRsv v = 0#11 := by
      have : ctrlRsv v = (v.extractLsb' 4 28).extractLsb' 1 11 := by
        ext i hi
        simp only [ctrlRsv, BitVec.getElem_extractLsb', BitVec.getLsbD_extractLsb']
        simp [show 1 + i < 28 by omega, ← Nat.add_assoc 4 1 i]
      rw [this, h0]
      rfl
    obtain ⟨hi, -⟩ | ⟨-, -, hr, -⟩ | ⟨-, -, h0, -⟩ | ⟨-, -, h0, -⟩ := decodeCtrlWord_cases v
    · rw [h] at hi; cases hi
    · exact hr
    · exact hzero h0
    · exact hzero h0
  rw [Request.word, State.stagedWith, ← hrsv]
  exact ctrlWord_fields v

theorem State.drawnPort_zero {s : State} {l : List Nat} (hp : s.hasPort 0 = true) (hph : (s.port 0).phase = .power)
    (hd : s.draws = 0 :: l) : s.drawnPort = some 0 := by
  have hdraw : s.nextDraw = 0 := by rw [State.nextDraw, hd]; rfl
  have hlist : s.powerPorts = 0 :: ([1, 2, 3, 4, 5, 6, 7] : List Port).filter
      fun p => s.hasPort p && (s.port p).phase == .power := by
    rw [State.powerPorts, Port.all, List.filter_cons_of_pos (by simp [hp, hph])]
  rw [State.drawnPort, hdraw, hlist, choose_zero]

/-- The sequencer at IDLE, with 0 as the next draw, fetches the operation of port 0 where that port waits for it. -/
theorem State.fetch_of_draw_zero {u : State} {l : List Nat} {v : Word} (hm : u.nextMove = .sequencer)
    (hl : u.pwr.step = .idle) (hd : u.draws = 0 :: l) (hp : u.hasPort 0 = true) (hph : (u.port 0).phase = .power)
    (hword : (u.port 0).req.word = v) : u.fetch = some (decodeCtrlWord v) := by
  simp only [State.fetch, hm, State.sequencerOperation, hl, State.drawnPort_zero hp hph hd, Option.map_some, hword]

/-- Settles O57, by the three ways a word is placed. -/
theorem placedWordIsFetched : Obligations.PlacedWordIsFetched := by
  intro s v hports
  have hp : s.hasPort 0 = true := decide_eq_true hports
  have hbusy : (s.freePort0.port 0).busy = false := by rw [State.freePort0, State.port_setPort_self]
  have hpower (hi : isIllegal v = false) (hd : decodeCtrlWord v = .powerOn ∨ decodeCtrlWord v = .powerOff) :
      (s.placeWord v).fetch = some (decodeCtrlWord v) := by
    have hplace : s.placeWord v = { s.freePort0.submit 0 v with
        moves := .sequencer :: (s.freePort0.submit 0 v).moves, draws := 0 :: (s.freePort0.submit 0 v).draws
        pwr := { (s.freePort0.submit 0 v).pwr with step := .idle } } := by
      obtain hd | hd := hd <;> simp only [State.placeWord, hd]
    have hport := State.port_setPort_self s.freePort0 0 { s.freePort0.port 0 with
      rsv := ctrlRsv v, staging := s.freePort0.stagedWith 0 v, req := s.freePort0.stagedWith 0 v, done := false
      result := .ok, busy := true, phase := .power }
    rw [hplace, State.submit_power hbusy hd]
    exact State.fetch_of_draw_zero rfl rfl rfl hp (congrArg PortState.phase hport)
      ((congrArg (fun x => x.req.word) hport).trans (State.word_stagedWith hi))
  obtain ⟨hi, hd⟩ | ⟨-, hop, -, hd⟩ | ⟨hi, -, -, hd⟩ | ⟨hi, -, -, hd⟩ := decodeCtrlWord_cases v
  · simp only [State.placeWord, hd]
    refine (State.fetch_host_write rfl).trans ?_
    refine (congrArg (Option.map _) (State.ctrlWritePort_of_write (p := 0) (by exact hp) rfl rfl)).trans ?_
    simp only [Option.map_some, ctrlWriteOperation, hd]
  · have hport := State.port_setPort_self s.freePort0 0 { s.freePort0.port 0 with
      rsv := ctrlRsv v, staging := s.freePort0.stagedWith 0 v, req := s.freePort0.stagedWith 0 v, done := false
      result := .ok, busy := true, phase := if ctrlExp v then .registering else .writing, wlabel := .w1 }
    have hsending (x : Phase) (hx : x = if ctrlExp v then Phase.registering else .writing) :
        x = .registering ∨ x = .writing ∨ x = .waiting := by
      rw [hx]
      cases ctrlExp v <;> simp
    simp only [State.placeWord, hd, State.submit_send hbusy hd]
    refine (State.fetch_port rfl (by exact hp) ?_ ?_).trans ?_
    · exact hsending _ (congrArg PortState.phase hport)
    · exact (congrArg (fun x => x.req.op) hport).trans hop
    · exact congrArg (fun x => some (Instr.sendCommand x.req.exp x.req.cmdOpcode)) hport
  · exact hpower hi (.inl hd)
  · exact hpower hi (.inr hd)

/-! ## Reset -/

/-- Settles O55. -/
theorem resetRegisterReads : Obligations.ResetRegisterReads := by
  unfold Obligations.ResetRegisterReads
  decide

theorem State.port_resetWith (c : Params) (wakeConfig : BitVec 16) (mem : Memory) (inbound : List Byte) (p : Port) :
    (State.resetWith c wakeConfig mem inbound).port p = PortState.reset := by
  simp [State.port, State.resetWith]

theorem State.slot_resetWith (c : Params) (wakeConfig : BitVec 16) (mem : Memory) (inbound : List Byte) (i : SlotIx) :
    (State.resetWith c wakeConfig mem inbound).slot i = Slot.free := by
  simp [State.slot, State.resetWith]

/-- Settles O59: no port, slot or agent is active after reset. -/
theorem resetMeetsInvariant : Obligations.ResetMeetsInvariant := by
  have hreset (c : Params) (wakeConfig : BitVec 16) (mem : Memory) (inbound : List Byte) (hc : c.wf = true)
      (hmem : mem.wf = true) (hwake : wakeConfig.toNat < 2 ^ c.wcW) :
      (State.resetWith c wakeConfig mem inbound).Inv := by
    refine ⟨hc, hmem, fun p => ?_, fun i => ?_, ?_, ?_⟩
    · rw [State.port_resetWith]
      constructor <;> simp [PortState.reset]
    · have hslot := State.slot_resetWith c wakeConfig mem inbound i
      have hinvalid : ((State.resetWith c wakeConfig mem inbound).slot i).valid ≠ true := by rw [hslot]; decide
      exact ⟨fun _ => hslot, (absurd · hinvalid), (absurd · hinvalid), (absurd · hinvalid),
        fun _ h => absurd h hinvalid⟩
    · constructor <;> simp [State.resetWith, RxLabel.reading, RxLabel.copying]
    · constructor <;> simp [State.resetWith, PseqStep.poweringOn, PseqStep.poweringOff, hwake]
  exact ⟨hreset, hreset Params.tc 0#16 [] [] (by decide) (by decide) (by decide)⟩

end Sys2Proof.Machine

/-! LOCATE as a whole (41_frame_sync.md sections 3 and 4): where the tests after a read end, what an N2H sync word does
at each read that takes one, and the runs to SyncTimeout and to a frame header. -/

namespace Sys2Proof.Machine

/-! ## The tests of L3 to L6 after a read -/

/-- The window after n shifts of step L5. -/
def Window.shifted (w : Window) (n : Nat) : Window :=
  match n with
  | 0 => w
  | k + 1 => (w.shifted k).shift

theorem searchFrom_found {c : Params} {seq : BitVec 8} {n a : Nat} {w : Window} (h : syncMatch c w.candidate seq = true) :
    searchFrom c seq (n + 1) w a = (.found, w, a) := by
  rw [searchFrom, if_pos h]

theorem searchFrom_needsRead {c : Params} {seq : BitVec 8} {n a : Nat} {w : Window}
    (h : syncMatch c w.candidate seq = false) (ha : a % 4 = 0) : searchFrom c seq (n + 1) w a = (.needsRead, w, a) := by
  rw [searchFrom, if_neg (by simp [h]), if_pos ha]

theorem searchFrom_limit {c : Params} {seq : BitVec 8} {n a : Nat} {w : Window}
    (h : syncMatch c w.candidate seq = false) (ha : a % 4 ≠ 0) (hlim : a + 1 = 40) :
    searchFrom c seq (n + 1) w a = (.timeout, w.shift, a + 1) := by
  rw [searchFrom, if_neg (by simp [h]), if_neg ha,
    if_pos (show a + 1 = syncScanLimit from hlim)]

theorem searchFrom_next {c : Params} {seq : BitVec 8} {n a : Nat} {w : Window}
    (h : syncMatch c w.candidate seq = false) (ha : a % 4 ≠ 0) (hlim : a + 1 ≠ 40) :
    searchFrom c seq (n + 1) w a = searchFrom c seq n w.shift (a + 1) := by
  rw [searchFrom, if_neg (by simp [h]), if_neg ha,
    if_neg (show a + 1 ≠ syncScanLimit from hlim)]

section
variable {c : Params} {seq : BitVec 8} {w : Window} {a : Nat}

/-- While none of the candidates behind offset a matches, the search goes on, up to the next multiple of 4. -/
theorem searchAfterRead_shifted (h4 : a % 4 = 0) {j : Nat} (hj : 1 ≤ j ∧ j ≤ 4) (ha : a + j < 40)
    (hno : ∀ i, 1 ≤ i → i < j → syncMatch c (w.shifted i).candidate seq = false) :
    searchAfterRead c seq w a = searchFrom c seq (4 - (j - 1)) (w.shifted j) (a + j) := by
  obtain ⟨hj1, hj4⟩ := hj
  induction j, hj1 using Nat.le_induction with
  | base => rw [searchAfterRead, if_neg (by rw [syncScanLimit]; omega)]; rfl
  | succ j hj1 ih =>
    rw [ih (by omega) (fun i h1 h2 => hno i h1 (by omega)) (by omega),
      show 4 - (j - 1) = (4 - (j + 1 - 1)) + 1 by omega,
      searchFrom_next (hno j hj1 (by omega)) (by omega) (by omega)]
    rfl

theorem searchAfterRead_found (h4 : a % 4 = 0) {j : Nat} (hj : 1 ≤ j ∧ j ≤ 4) (ha : a + j < 40)
    (hno : ∀ i, 1 ≤ i → i < j → syncMatch c (w.shifted i).candidate seq = false)
    (hyes : syncMatch c (w.shifted j).candidate seq = true) :
    searchAfterRead c seq w a = (.found, w.shifted j, a + j) := by
  rw [searchAfterRead_shifted h4 hj ha hno, show 4 - (j - 1) = (4 - j) + 1 by omega, searchFrom_found hyes]

theorem searchAfterRead_needsRead (h4 : a % 4 = 0) (ha : a + 4 < 40)
    (hno : ∀ i, 1 ≤ i → i ≤ 4 → syncMatch c (w.shifted i).candidate seq = false) :
    searchAfterRead c seq w a = (.needsRead, w.shifted 4, a + 4) := by
  rw [searchAfterRead_shifted h4 (by decide) ha fun i h1 h2 => hno i h1 h2.le]
  exact searchFrom_needsRead (hno 4 (by decide) (by decide)) (by omega)

theorem searchAfterRead_limit (h4 : a % 4 = 0) (ha : a + 4 = 40)
    (hno : ∀ i, 1 ≤ i → i < 4 → syncMatch c (w.shifted i).candidate seq = false) :
    searchAfterRead c seq w a = (.timeout, w.shifted 4, a + 4) := by
  rw [searchAfterRead_shifted h4 (j := 3) (by decide) (by omega) fun i h1 h2 => hno i h1 (by omega)]
  exact searchFrom_limit (hno 3 (by decide) (by decide)) (by omega) (by omega)

end

/-! ## An N2H sync word as the answer to a read -/

theorem execN2hSyncWord_l2 {s : State} (hl : s.rx.label = .l2) (b : Bool) (q : BitVec 2) :
    exec (.n2hSyncWord b q) s = .next (s.answering (bytes32 (n2hSyncValue s.cfg b q))).locateL2 := by
  change execN2hSyncWord b q s = _
  simp only [execN2hSyncWord, hl]

theorem execN2hSyncWord_l4 {s : State} (hl : s.rx.label = .l4) (b : Bool) (q : BitVec 2) :
    exec (.n2hSyncWord b q) s = .next (s.answering (bytes32 (n2hSyncValue s.cfg b q))).locateL4 := by
  change execN2hSyncWord b q s = _
  simp only [execN2hSyncWord, hl]

theorem execN2hSyncWord_word {s : State} (hl : s.rx.label = .l9 ∨ s.rx.label = .l10) (b : Bool) (q : BitVec 2) :
    exec (.n2hSyncWord b q) s = .next (s.answering (bytes32 (n2hSyncValue s.cfg b q))).locateL9 := by
  change execN2hSyncWord b q s = _
  obtain hl | hl := hl
  · simp only [execN2hSyncWord, hl]
  · simp only [execN2hSyncWord, hl]
    rfl

theorem n2hSyncValue_inj_iff {c : Params} {b b' : Bool} {q q' : BitVec 2} :
    n2hSyncValue c b q = n2hSyncValue c b' q' ↔ b = b' ∧ q = q' := by
  refine ⟨fun h => ?_, fun ⟨hb, hq⟩ => by rw [hb, hq]⟩
  obtain ⟨-, hb, hq⟩ := n2hSyncValue_fields c b q
  obtain ⟨-, hb', hq'⟩ := n2hSyncValue_fields c b' q'
  exact ⟨by rw [← hb, h, hb'], by rw [← hq, h, hq']⟩

/-- LOCATE accepts an N2H sync word exactly where it has no sequence number or the right one. -/
theorem syncMatch_n2hSyncValue {c : Params} (hc : c.wf = true) {b : Bool} {q : BitVec 2} (hq : b = false → q = 0#2)
    (seq : BitVec 8) : syncMatch c (n2hSyncValue c b q) seq = true ↔ b = false ∨ q = seq.extractLsb' 0 2 := by
  rw [syncMatch_iff hc, n2hSyncValue_inj_iff, n2hSyncValue_inj_iff]
  cases b with
  | false => simp [hq rfl]
  | true => simp

/-- The read that takes the word of an answer, and the bytes it takes. -/
theorem State.transportRead_answering_word (s : State) (v : Word) :
    (s.answering (bytes32 v)).transportRead 4 =
      { s with consumed := s.consumed + 4, history := s.history ++ [.rx .rx (bytes32 v)] } :=
  s.transportRead_answering (bytes32 v)

theorem State.streamBytes_answering_word (s : State) (v : Word) : (s.answering (bytes32 v)).streamBytes 4 = bytes32 v :=
  s.streamBytes_answering (bytes32 v)

/-- Settles O8, read by read. -/
theorem n2hSyncWordAnswersLocate : Obligations.N2hSyncWordAnswersLocate := by
  intro s b q hc hq w b0 b1 b2 b3 read win accepted answers old matches_ c1 c2 c3 found shifted
  have hread : (s.answering (bytes32 w)).transportRead 4 = read s.rx := s.transportRead_answering_word w
  have hbytes : (s.answering (bytes32 w)).streamBytes 4 = [b0, b1, b2, b3] := s.streamBytes_answering_word w
  have hword : le32 b0 b1 b2 b3 = w := le32_bytes32 w
  have haccepted : accepted ↔ syncMatch s.cfg (le32 b0 b1 b2 b3) s.txSeqNum = true := by
    rw [hword]
    exact (syncMatch_n2hSyncValue hc hq s.txSeqNum).symm
  have hrejected : ¬accepted ↔ syncMatch s.cfg (le32 b0 b1 b2 b3) s.txSeqNum = false := by
    rw [haccepted, Bool.not_eq_true]
  have hno {x : Word} : ¬matches_ x ↔ syncMatch s.cfg x s.txSeqNum = false := by
    rw [← Bool.not_eq_true]
  have hl2 : (s.answering (bytes32 w)).locateL2 = (read s.rx).afterSearch (searchFrom s.cfg s.txSeqNum 4 win 0) := by
    rw [State.locateL2, hread, hbytes]
    rfl
  have hl4 : (s.answering (bytes32 w)).locateL4 =
      (read s.rx).afterSearch (searchAfterRead s.cfg s.txSeqNum (old.setHigh [b0, b1, b2, b3]) s.rx.a) := by
    rw [State.locateL4, hread, hbytes]
    rfl
  have hl9 : (s.answering (bytes32 w)).locateL9 = (read s.rx).afterWord win := by
    rw [State.locateL9, hread, hbytes]
    rfl
  refine ⟨fun hl ha => ?_, fun hl ha => ?_, fun hl ha => ?_, fun hl ha => ?_, fun hl h4 ha => ?_⟩
  · refine (execN2hSyncWord_l2 hl b q).trans (congrArg _ (hl2.trans ?_))
    rw [searchFrom_found (w := win) (haccepted.mp ha)]
    rfl
  · refine (execN2hSyncWord_l2 hl b q).trans (congrArg _ (hl2.trans ?_))
    rw [searchFrom_needsRead (w := win) (hrejected.mp ha) rfl]
    rfl
  · refine (execN2hSyncWord_word hl b q).trans (congrArg _ (hl9.trans ?_))
    exact State.afterWord_accepted (s := read s.rx) (haccepted.mp ha)
  · refine (execN2hSyncWord_word hl b q).trans (congrArg _ (hl9.trans ?_))
    exact State.afterWord_wordA (s := read s.rx) (hrejected.mp ha)
  · have hanswers {r : SearchEnd × Window × Nat} {t : State}
        (hr : searchAfterRead s.cfg s.txSeqNum (old.setHigh [b0, b1, b2, b3]) s.rx.a = r)
        (ht : (read s.rx).afterSearch r = t) : answers t :=
      (execN2hSyncWord_l4 hl b q).trans (congrArg _ (hl4.trans (by rw [hr, ht])))
    have hmod {j : Nat} (hj : j < 4) : (s.rx.a + j) % 4 = j := by omega
    have hm {j : Nat} (hj : j < 4) : Fin.ofNat 4 (s.rx.a + j) = Fin.ofNat 4 j :=
      Fin.ext ((hmod hj).trans (Nat.mod_eq_of_lt hj).symm)
    refine ⟨fun h1 => ?_, fun h1 h2 => ?_, fun h1 h2 h3 => ?_, fun h1 h2 h3 =>
      ⟨fun hlt h => ?_, fun hlt h => ?_, fun heq => ?_⟩⟩
    · refine hanswers (searchAfterRead_found h4 (j := 1) (by decide) (by omega) (fun i _ _ => by omega) h1) ?_
      rw [State.afterSearch_found_misaligned _ _ (by rw [hmod (by decide)]; decide), hm (by decide)]
      rfl
    · refine hanswers (searchAfterRead_found h4 (j := 2) (by decide) (by omega) (fun i _ _ => ?_) h2) ?_
      · obtain rfl : i = 1 := by omega
        exact hno.mp h1
      · rw [State.afterSearch_found_misaligned _ _ (by rw [hmod (by decide)]; decide), hm (by decide)]
        rfl
    · refine hanswers (searchAfterRead_found h4 (j := 3) (by decide) (by omega) (fun i _ _ => ?_) h3) ?_
      · obtain rfl | rfl : i = 1 ∨ i = 2 := by omega
        · exact hno.mp h1
        · exact hno.mp h2
      · rw [State.afterSearch_found_misaligned _ _ (by rw [hmod (by decide)]; decide), hm (by decide)]
        rfl
    all_goals
      have hthree (i : Nat) (_ : 1 ≤ i) (_ : i < 4) :
          syncMatch s.cfg ((old.setHigh [b0, b1, b2, b3]).shifted i).candidate s.txSeqNum = false := by
        obtain rfl | rfl | rfl : i = 1 ∨ i = 2 ∨ i = 3 := by omega
        · exact hno.mp h1
        · exact hno.mp h2
        · exact hno.mp h3
    · refine hanswers (searchAfterRead_found h4 (j := 4) (by decide) hlt hthree (haccepted.mp h)) ?_
      rw [State.afterSearch_found_aligned _ _ (by omega)]
      rfl
    · refine hanswers (searchAfterRead_needsRead h4 hlt fun i h1 h4 => ?_) rfl
      obtain hlt4 | rfl : i < 4 ∨ i = 4 := by omega
      · exact hthree i h1 hlt4
      · exact hrejected.mp h
    · rw [← heq]
      exact hanswers (searchAfterRead_limit h4 heq hthree) rfl

end Sys2Proof.Machine

/-! LOCATE as a whole (41_frame_sync.md sections 3 and 4): its runs to SyncTimeout and to a frame header, alone and
inside a run of the handler. -/

namespace Sys2Proof.Machine

/-! ## The bytes that events send -/

/-- The bytes of one TX event. -/
def Event.sentBytes (e : Event) : List Byte :=
  match e with
  | .tx _ bytes => bytes
  | _ => []

/-- The outbound bytes that events record, in their order. -/
def sentBytesOf (es : List Event) : List Byte := es.flatMap Event.sentBytes

theorem State.outbound_eq (s : State) : s.outbound = sentBytesOf s.history := rfl

@[simp] theorem sentBytesOf_append (es fs : List Event) : sentBytesOf (es ++ fs) = sentBytesOf es ++ sentBytesOf fs :=
  List.flatMap_append

theorem State.outbound_of_history {s t : State} {es : List Event} (h : t.history = s.history ++ es) :
    t.outbound = s.outbound ++ sentBytesOf es := by
  rw [State.outbound_eq, h, sentBytesOf_append, State.outbound_eq]

/-! ## Runs of LOCATE -/

/-- n steps of LOCATE, each at one of its labels, lead from one state to the other. -/
inductive LocateRun (s : State) : Nat → State → Prop where
  | here : LocateRun s 0 s
  | read {n : Nat} {t u : State} (h : LocateRun s n t) (hu : t.locateStep = some u) : LocateRun s (n + 1) u

theorem LocateRun.alone {s t : State} {n : Nat} (h : LocateRun s n t) : repeatExec .locate n s = .next t := by
  induction h with
  | here => rfl
  | read h hu ih => rw [repeatExec_add ih, repeatExec_succ (exec_locate hu)]; rfl

/-- Nothing is left to settle where LOCATE's next step comes. -/
theorem State.settle_of_locateStep {s u : State} (h : s.locateStep = some u) : s.settle = s := by
  cases hl : s.rx.label <;> simp only [State.locateStep, hl, reduceCtorEq] at h <;> simp only [State.settle, hl]

/-- The handler runs LOCATE's steps; what its return leads to falls in the last of them (45_receive_handler.md rule
R361). -/
theorem LocateRun.inHandler {s t : State} {n : Nat} (h : LocateRun s n t) (hs : s.settle = s) :
    repeatExec .onNwpIrq n s = .next t.settle := by
  induction h with
  | here => rw [hs]; rfl
  | @read n t u h hu ih =>
    rw [State.settle_of_locateStep hu] at ih
    rw [repeatExec_add ih, repeatExec_succ (i := .onNwpIrq) (t := u.settle) (execOnNwpIrq_locate hu)]
    rfl

/-! ## A state of LOCATE, by what it has read -/

/-- The state after n bytes were taken, with the events that record it and the RX engine's fields. -/
def State.located (s : State) (n : Nat) (es : List Event) (x : RxState) : State :=
  { s with inbound := s.inbound.drop n, consumed := s.consumed + n, history := s.history ++ es, rx := x }

theorem State.streamBytes_located (s : State) (n : Nat) (es : List Event) (x : RxState) (k : Nat) :
    (s.located n es x).streamBytes k = s.streamAt n k :=
  List.map_congr_left fun i _ => State.streamByte_of_consumed (n := n) rfl rfl i

theorem State.transportRead_located (s : State) (n : Nat) (es : List Event) (x : RxState) (k : Nat) :
    (s.located n es x).transportRead k = s.located (n + k) (es ++ [.rx .rx (s.streamAt n k)]) x := by
  rw [State.transportRead, State.streamBytes_located]
  simp only [State.located, State.consume, State.emit, List.drop_drop, Nat.add_assoc, List.append_assoc]

/-- W[0..3] holds S[j .. j+3]. -/
structure Window.HoldsAt (w : Window) (s : State) (j : Nat) : Prop where
  w0 : w.w0 = s.streamByte j
  w1 : w.w1 = s.streamByte (j + 1)
  w2 : w.w2 = s.streamByte (j + 2)
  w3 : w.w3 = s.streamByte (j + 3)

theorem Window.HoldsAt.candidate {w : Window} {s : State} {j : Nat} (h : w.HoldsAt s j) : w.candidate = s.wordAt j := by
  rw [Window.candidate, h.w0, h.w1, h.w2, h.w3]
  rfl

theorem Window.HoldsAt.setHigh {w : Window} {s : State} {j : Nat} (h : w.HoldsAt s j) :
    w.setHigh (s.streamAt (j + 4) 4) = s.windowAt j := by
  rw [Window.setHigh, h.w0, h.w1, h.w2, h.w3]
  rfl

theorem Window.holdsAt_setLow (w : Window) (s : State) (j : Nat) : (w.setLow (s.streamAt j 4)).HoldsAt s j :=
  ⟨rfl, rfl, rfl, rfl⟩

theorem State.holdsAt_shifted_four (s : State) (j : Nat) : ((s.windowAt j).shifted 4).HoldsAt s (j + 4) :=
  ⟨rfl, rfl, rfl, rfl⟩

theorem State.candidate_shifted (s : State) (a : Nat) {i : Nat} (hi : i ≤ 4) :
    ((s.windowAt a).shifted i).candidate = s.wordAt (a + i) := by
  interval_cases i <;> rfl

/-- L7's rebase and L8's read put the word behind a sync word at an offset that is no multiple of 4 into W[0..3]. -/
theorem State.holdsAt_fillTail (s : State) (a : Nat) (j : Fin 4) (hj : j ≠ 0) :
    (((s.windowAt a).shifted j.val).rebase.fillTail j (s.streamAt (a + 8) j.val)).HoldsAt s (a + j.val + 4) := by
  fin_cases j
  · contradiction
  all_goals exact ⟨by rfl, by rfl, by rfl, by rfl⟩

/-- The event of L1. -/
def askEvent : Event := .tx .rx [0x65#8, 0x87#8, 0x78#8, 0x56#8]

/-- The events of the first r reads of a search, four bytes each. -/
def State.searchReads (s : State) (r : Nat) : List Event := (List.range r).map fun i => .rx .rx (s.streamAt (4 * i) 4)

theorem State.searchReads_succ (s : State) (r : Nat) :
    s.searchReads (r + 1) = s.searchReads r ++ [.rx .rx (s.streamAt (4 * r) 4)] := by
  simp [State.searchReads, List.range_succ]

theorem sentBytesOf_searchReads (s : State) (r : Nat) : sentBytesOf (s.searchReads r) = [] := by
  induction r with
  | zero => rfl
  | succ r ih => rw [State.searchReads_succ, sentBytesOf_append, ih]; rfl

section
variable {s : State}

theorem State.locateL2_located (n : Nat) (es : List Event) (x : RxState) : (s.located n es x).locateL2 =
    (s.located (n + 4) (es ++ [.rx .rx (s.streamAt n 4)]) x).afterSearch
      (searchFrom s.cfg s.txSeqNum 4 (x.window.setLow (s.streamAt n 4)) 0) := by
  rw [State.locateL2, State.transportRead_located, State.streamBytes_located]
  rfl

theorem State.locateL4_located {j : Nat} (es : List Event) {x : RxState} (hw : x.window.HoldsAt s j) :
    (s.located (j + 4) es x).locateL4 =
      (s.located (j + 8) (es ++ [.rx .rx (s.streamAt (j + 4) 4)]) x).afterSearch
        (searchAfterRead s.cfg s.txSeqNum (s.windowAt j) x.a) := by
  rw [State.locateL4, State.transportRead_located, State.streamBytes_located]
  change State.afterSearch _ (searchAfterRead _ _ (x.window.setHigh _) _) = _
  rw [hw.setHigh]
  rfl

theorem State.afterSearch_located_aligned (n : Nat) (es : List Event) (x : RxState) (w : Window) {a : Nat}
    (ha : a % 4 = 0) : (s.located n es x).afterSearch (.found, w, a) =
      s.located n es { x with a := a, m := Fin.ofNat 4 a, label := .l9, window := w } := by
  rw [State.afterSearch_found_aligned _ _ ha, show Fin.ofNat 4 a = 0 from Fin.ext ha]
  rfl

theorem State.afterSearch_located_misaligned (n : Nat) (es : List Event) (x : RxState) (w : Window) {a : Nat}
    (ha : a % 4 ≠ 0) : (s.located n es x).afterSearch (.found, w, a) =
      s.located n es { x with a := a, m := Fin.ofNat 4 a, label := .l8, window := w.rebase } := by
  rw [State.afterSearch_found_misaligned _ _ ha]
  rfl

theorem State.afterWord_located_accepted (n : Nat) (es : List Event) (x : RxState) {w : Window} {j : Nat}
    (hw : w.HoldsAt s j) (h : s.acceptsAt j = true) :
    (s.located n es x).afterWord w = s.located n es { x with label := .l10, window := w } := by
  rw [State.afterWord_accepted (by rw [hw.candidate]; exact h)]
  rfl

theorem State.afterWord_located_wordA (n : Nat) (es : List Event) (x : RxState) {w : Window} {j : Nat}
    (hw : w.HoldsAt s j) (h : s.acceptsAt j = false) : (s.located n es x).afterWord w =
      ({ s with txSeqNum := s.txSeqNum + 1#8 } : State).located n es { x with label := .l11, window := w } := by
  rw [State.afterWord_wordA (by rw [hw.candidate]; exact h)]
  rfl

theorem State.locateL8_located (n : Nat) (es : List Event) (x : RxState) (l : RxLabel) (v : Window) :
    (s.located n es { x with label := l, window := v }).locateL8 =
      (s.located (n + x.m.val) (es ++ [.rx .rx (s.streamAt n x.m.val)]) x).afterWord
        (v.fillTail x.m (s.streamAt n x.m.val)) := by
  rw [State.locateL8, State.transportRead_located, State.streamBytes_located]
  rfl

/-- L9 and L10 are one read and one test. -/
theorem State.locateL9_located (n : Nat) (es : List Event) (x : RxState) (l : RxLabel) (v : Window) :
    (s.located n es { x with label := l, window := v }).locateL9 =
      (s.located (n + 4) (es ++ [.rx .rx (s.streamAt n 4)]) x).afterWord (v.setLow (s.streamAt n 4)) := by
  rw [State.locateL9, State.transportRead_located, State.streamBytes_located]
  rfl

theorem State.locateL10_located (n : Nat) (es : List Event) (x : RxState) (l : RxLabel) (v : Window) :
    (s.located n es { x with label := l, window := v }).locateL10 =
      (s.located (n + 4) (es ++ [.rx .rx (s.streamAt n 4)]) x).afterWord (v.setLow (s.streamAt n 4)) :=
  State.locateL9_located n es x l v

theorem State.locateL11_located {j : Nat} (es : List Event) (x : RxState) (l : RxLabel) {v : Window}
    (hv : v.HoldsAt s j) : (s.located (j + 4) es { x with label := l, window := v }).locateL11 =
      s.located (j + 8) (es ++ [.rx .rx (s.streamAt (j + 4) 4)])
        { x with window := s.windowAt j, label := if x.m = 0 then .locOk else .l12 } := by
  rw [State.locateL11, State.transportRead_located, State.streamBytes_located, ← hv.setHigh]
  rfl

theorem State.locateL12_located (n : Nat) (es : List Event) (x : RxState) (l : RxLabel) :
    (s.located n es { x with label := l }).locateL12 =
      s.located (n + filler x.m) (es ++ [.rx .rx (s.streamAt n (filler x.m))]) { x with label := .locOk } := by
  rw [State.locateL12, State.transportRead_located]
  rfl

/-! ## The search -/

/-- L1 and L2. -/
theorem LocateRun.first (hl : s.rx.label = .l1) :
    LocateRun s 2 ((s.located 4 (askEvent :: s.searchReads 1) { s.rx with label := .l2 }).afterSearch
      (searchFrom s.cfg s.txSeqNum 4 (s.rx.window.setLow (s.streamAt 0 4)) 0)) := by
  have hask : s.locateStep = some (s.located 0 [askEvent] { s.rx with label := .l2 }) := by
    rw [State.locateStep_l1 hl, State.locateL1_eq]
    rfl
  refine .read (.read .here hask) ?_
  rw [State.locateStep_l2 rfl, State.locateL2_located]
  rfl

/-- A search that has met no sync word goes on with L4. -/
theorem LocateRun.searching (hl : s.rx.label = .l1) (r : Nat) (hr : 4 * r < 40)
    (hno : ∀ j, j ≤ 4 * r → s.acceptsAt j = false) :
    ∃ w : Window, w.HoldsAt s (4 * r) ∧ LocateRun s (2 + r)
      (s.located (4 * r + 4) (askEvent :: s.searchReads (r + 1)) { s.rx with label := .l4, a := 4 * r, window := w }) := by
  induction r with
  | zero =>
    have hw := s.rx.window.holdsAt_setLow s 0
    refine ⟨_, hw, ?_⟩
    have hrun := LocateRun.first hl
    rw [searchFrom_needsRead (by rw [hw.candidate]; exact hno 0 (by omega)) rfl] at hrun
    exact hrun
  | succ r ih =>
    obtain ⟨w, hw, hrun⟩ := ih (by omega) fun j hj => hno j (by omega)
    refine ⟨_, s.holdsAt_shifted_four (4 * r), ?_⟩
    refine .read hrun ?_
    rw [State.locateStep_l4 rfl, State.locateL4_located _ (by exact hw),
      searchAfterRead_needsRead (by simp) (by simp; omega) ?_,
      State.searchReads_succ s (r + 1)]
    · rfl
    · intro i h1 h4
      rw [s.candidate_shifted _ h4]
      exact hno _ (by omega)

/-- LOCATE finds no sync word. -/
theorem LocateRun.timeout (hl : s.rx.label = .l1) (hno : ∀ j, j < 40 → s.acceptsAt j = false) :
    LocateRun s 12 (s.located 44 (askEvent :: s.searchReads 11)
      { s.rx with label := .h6, a := 40, window := (s.windowAt 36).shifted 4 }) := by
  obtain ⟨w, hw, hrun⟩ := LocateRun.searching hl 9 (by decide) fun j hj => hno j (by omega)
  refine .read hrun ?_
  rw [State.locateStep_l4 rfl, State.locateL4_located _ (by exact hw), searchAfterRead_limit (by simp) (by simp) ?_,
    State.searchReads_succ s 10]
  · rfl
  · intro i h1 h4
    rw [s.candidate_shifted _ h4.le]
    exact hno _ (by omega)

/-- Settles O11: eleven reads of the search, none of which meets a sync word. -/
theorem locateTimesOut : Obligations.LocateTimesOut := by
  intro s hl hno
  rw [(LocateRun.timeout hl hno).alone, List.append_assoc]
  rfl

/-! ## A sync word is found -/

/-- What LOCATE sends, and all it sends, is the word of L1. -/
def Asks (es : List Event) : Prop := sentBytesOf es = [0x65#8, 0x87#8, 0x78#8, 0x56#8]

theorem asks_searchReads (s : State) (r : Nat) : Asks (askEvent :: s.searchReads r) := by
  change sentBytesOf ([askEvent] ++ s.searchReads r) = _
  rw [sentBytesOf_append, sentBytesOf_searchReads]
  rfl

theorem Asks.append_read {es : List Event} (h : Asks es) (bytes : List Byte) : Asks (es ++ [.rx .rx bytes]) := by
  rw [Asks, sentBytesOf_append, h]
  rfl

/-- A sync word at offset 4r + j, met after r + 2 reads. -/
theorem LocateRun.met (hl : s.rx.label = .l1) (r : Nat) {j : Nat} (hj : 1 ≤ j ∧ j ≤ 4) (hlt : 4 * r + j < 40)
    (hno : ∀ i, i < 4 * r + j → s.acceptsAt i = false) (hyes : s.acceptsAt (4 * r + j) = true) :
    LocateRun s (3 + r) ((s.located (4 * r + 8) (askEvent :: s.searchReads (r + 2)) s.rx).afterSearch
      (.found, (s.windowAt (4 * r)).shifted j, 4 * r + j)) := by
  obtain ⟨w, hw, hrun⟩ := LocateRun.searching hl r (by omega) fun i hi => hno i (by omega)
  rw [show 3 + r = 2 + r + 1 by omega]
  refine .read hrun ?_
  rw [State.locateStep_l4 rfl, State.locateL4_located _ (by exact hw), State.searchReads_succ s (r + 1),
    searchAfterRead_found (by simp) hj (by exact hlt) ?_ (by rw [s.candidate_shifted _ hj.2]; exact hyes)]
  · simp only [State.afterSearch]
    split <;> rfl
  · intro i h1 h2
    rw [s.candidate_shifted _ (by omega)]
    exact hno _ (by omega)

/-- LOCATE meets a sync word at offset g, and takes the word behind it. -/
theorem LocateRun.found (hl : s.rx.label = .l1) {g : Nat} (hlt : g < 40) (hno : ∀ j, j < g → s.acceptsAt j = false)
    (hyes : s.acceptsAt g = true) :
    ∃ (es : List Event) (w : Window), Asks es ∧ w.HoldsAt s (g + 4) ∧
      LocateRun s (1 + (1 + (g + 3) / 4) + 1)
        ((s.located (g + 8) es { s.rx with a := g, m := Fin.ofNat 4 g }).afterWord w) := by
  by_cases h4 : g % 4 = 0
  · have htaken (r : Nat) (v : Window) (hrun : LocateRun s (1 + (1 + (g + 3) / 4))
        ((s.located (g + 4) (askEvent :: s.searchReads r) s.rx).afterSearch (.found, v, g))) :
        ∃ (es : List Event) (w : Window), Asks es ∧ w.HoldsAt s (g + 4) ∧
          LocateRun s (1 + (1 + (g + 3) / 4) + 1)
            ((s.located (g + 8) es { s.rx with a := g, m := Fin.ofNat 4 g }).afterWord w) := by
      refine ⟨_, _, (asks_searchReads s r).append_read (s.streamAt (g + 4) 4), v.holdsAt_setLow s (g + 4), .read hrun ?_⟩
      rw [State.afterSearch_located_aligned _ _ _ _ h4, State.locateStep_l9 rfl]
      exact congrArg some (State.locateL9_located (g + 4) _ { s.rx with a := g, m := Fin.ofNat 4 g } .l9 v)
    obtain rfl | ⟨r, rfl⟩ : g = 0 ∨ ∃ r, g = 4 * r + 4 := by
      obtain h0 | h0 := Nat.eq_zero_or_pos g
      · exact .inl h0
      · exact .inr ⟨g / 4 - 1, by omega⟩
    · have hrun := LocateRun.first hl
      rw [searchFrom_found (by rw [(s.rx.window.holdsAt_setLow s 0).candidate]; exact hyes)] at hrun
      exact htaken 1 _ hrun
    · refine htaken (r + 2) ((s.windowAt (4 * r)).shifted 4) ?_
      rw [show 1 + (1 + (4 * r + 4 + 3) / 4) = 3 + r by omega]
      exact LocateRun.met hl r (by decide) hlt hno hyes
  · obtain ⟨r, j, hj, rfl⟩ : ∃ (r : Nat) (j : Fin 4), j ≠ 0 ∧ g = 4 * r + j.val :=
      ⟨g / 4, Fin.ofNat 4 g, fun h => h4 (congrArg Fin.val h), (Nat.div_add_mod g 4).symm⟩
    have hm : Fin.ofNat 4 (4 * r + j.val) = j := Fin.ext (by rw [Fin.val_ofNat]; omega)
    have hpos : j.val ≠ 0 := fun h => hj (Fin.ext h)
    have hrun := LocateRun.met hl r (j := j.val) ⟨by omega, by omega⟩ hlt hno hyes
    refine ⟨_, _, (asks_searchReads s (r + 2)).append_read (s.streamAt (4 * r + 8) j.val),
      s.holdsAt_fillTail (4 * r) j hj, ?_⟩
    rw [show 1 + (1 + (4 * r + j.val + 3) / 4) + 1 = 3 + r + 1 by omega]
    refine .read hrun ?_
    rw [State.afterSearch_located_misaligned _ _ _ _ h4, State.locateStep_l8 rfl, hm,
      show 4 * r + j.val + 8 = 4 * r + 8 + j.val by omega]
    exact congrArg some (State.locateL8_located (4 * r + 8) _ { s.rx with a := 4 * r + j.val, m := j } .l8 _)

/-- LOCATE passes over k repeats of the sync word. -/
theorem LocateRun.skips (hl : s.rx.label = .l1) {g : Nat} (hlt : g < 40) (hno : ∀ j, j < g → s.acceptsAt j = false)
    (hyes : s.acceptsAt g = true) (k : Nat) (hk : ∀ i, i < k → s.acceptsAt (g + 4 + 4 * i) = true) :
    ∃ (es : List Event) (w : Window), Asks es ∧ w.HoldsAt s (g + 4 + 4 * k) ∧
      LocateRun s (1 + (1 + (g + 3) / 4) + 1 + k)
        ((s.located (g + 4 + 4 * k + 4) es { s.rx with a := g, m := Fin.ofNat 4 g }).afterWord w) := by
  induction k with
  | zero => exact LocateRun.found hl hlt hno hyes
  | succ k ih =>
    obtain ⟨es, w, hes, hw, hrun⟩ := ih fun i hi => hk i (by omega)
    refine ⟨_, _, hes.append_read (s.streamAt (g + 4 + 4 * (k + 1)) 4),
      w.holdsAt_setLow s (g + 4 + 4 * (k + 1)), .read hrun ?_⟩
    rw [State.afterWord_located_accepted _ _ _ hw (hk k (by omega)), State.locateStep_l10 rfl]
    exact congrArg some
      (State.locateL10_located (g + 4 + 4 * (k + 1)) _ { s.rx with a := g, m := Fin.ofNat 4 g } .l10 w)

theorem filler_ofNat (g : Nat) : filler (Fin.ofNat 4 g) = fillerAfter g := by
  rw [filler, fillerAfter]
  exact if_congr Fin.ext_iff rfl rfl

/-- LOCATE reads the header behind word A, and the filler where the sync word stood at no multiple of 4. -/
theorem LocateRun.header {g k : Nat} (hl : s.rx.label = .l1) (hs : s.syncAt g k) :
    ∃ es : List Event, Asks es ∧
      LocateRun s (locateSteps g k)
        { s.located (g + 12 + 4 * k + fillerAfter g) es { s.rx with
            label := .locOk, a := g, m := Fin.ofNat 4 g, window := s.windowAt (g + 4 + 4 * k) } with
          txSeqNum := s.txSeqNum + 1#8 } := by
  obtain ⟨hlt, hno, hyes, hk, hend⟩ := hs
  obtain ⟨es, w, hes, hw, hrun⟩ := LocateRun.skips hl hlt hno hyes k hk
  rw [State.afterWord_located_wordA _ _ _ hw hend] at hrun
  have hread := State.locateL11_located (s := { s with txSeqNum := s.txSeqNum + 1#8 }) es
    { s.rx with a := g, m := Fin.ofNat 4 g } .l11 ⟨hw.w0, hw.w1, hw.w2, hw.w3⟩
  have hrun := hrun.read ((State.locateStep_l11 (by rfl)).trans (congrArg some hread))
  have hes := hes.append_read (s.streamAt (g + 4 + 4 * k + 4) 4)
  rw [show g + 12 + 4 * k = g + 4 + 4 * k + 8 by omega, locateSteps]
  by_cases h4 : g % 4 = 0
  · refine ⟨_, hes, ?_⟩
    rw [if_pos (show Fin.ofNat 4 g = 0 from Fin.ext h4)] at hrun
    rw [fillerAfter, if_pos h4, if_pos h4]
    exact hrun
  · refine ⟨_, hes.append_read (s.streamAt (g + 4 + 4 * k + 8) (fillerAfter g)), ?_⟩
    have hm : Fin.ofNat 4 g ≠ 0 := fun h => h4 (congrArg Fin.val h)
    rw [if_neg hm] at hrun
    rw [if_neg h4, ← filler_ofNat]
    refine hrun.read ((State.locateStep_l12 (by rfl)).trans (congrArg some ?_))
    exact State.locateL12_located (s := { s with txSeqNum := s.txSeqNum + 1#8 }) _ _
      { s.rx with a := g, m := Fin.ofNat 4 g, window := s.windowAt (g + 4 + 4 * k) } .l12

/-- Settles O12: the search, the skip loop and the header, in this order. -/
theorem locateSucceeds : Obligations.LocateSucceeds := by
  intro s g k hl hs n
  refine ⟨?_, ?_⟩
  · simp only [n, fillerAfter]
    split <;> omega
  · obtain ⟨es, hes, hrun⟩ := LocateRun.header hl hs
    exact ⟨_, hrun.alone, (State.outbound_of_history rfl).trans (congrArg _ hes), rfl⟩

end

end Sys2Proof.Machine

/-! WRITE_COMMAND and the runs of SEND_COMMAND (42_codec.md section 1, 44_dispatcher.md section 3). -/

namespace Sys2Proof.Machine

/-! ## A port between its writes -/

/-- The state in which port p stands at a phase and a label, with more events recorded: what the writes of a command
frame change. -/
def State.sending (s : State) (p : Port) (at_ : Phase × WriteLabel) (es : List Event) : State :=
  { s.setPort p { s.port p with phase := at_.1, wlabel := at_.2 } with history := s.history ++ es }

@[simp] theorem State.port_sending (s : State) (p : Port) (at_ : Phase × WriteLabel) (es : List Event) :
    (s.sending p at_ es).port p = { s.port p with phase := at_.1, wlabel := at_.2 } := State.port_setPort_self ..

theorem State.sending_sending (s : State) (p : Port) (a b : Phase × WriteLabel) (es fs : List Event) :
    (s.sending p a es).sending p b fs = s.sending p b (es ++ fs) := by
  rw [State.sending, State.port_sending]
  simp only [State.sending, List.append_assoc]
  exact congrArg (fun t : State => { t with history := s.history ++ (es ++ fs) }) (State.setPort_setPort s p _ _)

theorem State.sending_start {s : State} {p : Port} (hph : (s.port p).phase = .writing) :
    s.sending p (.writing, (s.port p).wlabel) [] = s := by
  rw [State.sending, ← hph, List.append_nil]
  exact congrArg (fun t : State => { t with history := s.history }) (State.setPort_port s p)

/-- The segments that come after the write at a label, each with its own label (42_codec.md rule R240). -/
def Request.leftAfter (r : Request) (l : WriteLabel) : List (Segment × WriteLabel) :=
  match l with
  | .w2 => [(r.seg0, .w3), (r.seg1, .w4), (r.seg2, .w5)]
  | .w3 => [(r.seg1, .w4), (r.seg2, .w5)]
  | .w4 => [(r.seg2, .w5)]
  | _ => []

/-- The port moves on from a label to the next segment that is sent, or past the last write. -/
theorem State.wrote_eq {s : State} {p : Port} (r : Request) {l : WriteLabel} (hph : (s.port p).phase = .writing)
    (hl : (s.port p).wlabel = l) (h : l ≠ .w1 ∧ l ≠ .s4) (es : List Event) :
    ({ s with history := s.history ++ es } : State).wrote p r l = s.sending p (r.standsAfter l (r.leftAfter l)) es := by
  have hleft : (l = .w2 ∧ r.leftAfter l = [(r.seg0, .w3), (r.seg1, .w4), (r.seg2, .w5)]) ∨
      (l = .w3 ∧ r.leftAfter l = [(r.seg1, .w4), (r.seg2, .w5)]) ∨ (l = .w4 ∧ r.leftAfter l = [(r.seg2, .w5)]) ∨
      (l = .w5 ∧ r.leftAfter l = []) := by
    cases l <;> simp_all [Request.leftAfter]
  exact congrArg (fun x => { s.setPort p x with history := s.history ++ es })
    (PortState.afterWrite_eq_standsAfter hph hl hleft)

section
variable {s : State} {p : Port} {r : Request}

theorem State.writeStep_w1 (hph : (s.port p).phase = .writing) (hl : (s.port p).wlabel = .w1)
    (hlen : r.bodyLength ≤ 0xFFFF) :
    s.writeStep p r = some (.next (s.sending p (.writing, .w2) [.tx (.port p) (bytes32 h2nSyncValue)])) := by
  simp only [State.writeStep, hl, if_neg (Nat.not_lt.mpr hlen)]
  rw [← hph]
  rfl

theorem State.writeStep_overflow (hl : (s.port p).wlabel = .w1) (hlen : 0xFFFF < r.bodyLength) :
    s.writeStep p r = some (.refused .lengthOverflow) := by
  simp only [State.writeStep, hl, if_pos hlen]

theorem State.writeStep_w2 (hph : (s.port p).phase = .writing) (hl : (s.port p).wlabel = .w2) :
    s.writeStep p r =
      some (.next (s.sending p (r.standsAfter .w2 (r.leftAfter .w2)) [.tx (.port p) r.headerBytes])) := by
  simp only [State.writeStep, hl]
  exact congrArg _ (congrArg _ (State.wrote_eq r hph hl (by decide) _))

/-- W3, W4 and W5, each for a segment that is sent. -/
theorem State.writeStep_segment {l : WriteLabel} (hl : l = .w3 ∨ l = .w4 ∨ l = .w5)
    (hph : (s.port p).phase = .writing) (hat : (s.port p).wlabel = l) (hsent : (r.segmentAt l).sent = true)
    (hadm : admitted s.cfg (r.segmentAt l).base.toNat (r.segmentAt l).len.toNat = true) :
    s.writeStep p r = some (.next (s.sending p (r.standsAfter l (r.leftAfter l))
      [.memr (.port p) (r.segmentAt l).base.toNat (s.mem.read (r.segmentAt l).base.toNat (r.segmentAt l).len.toNat),
        .tx (.port p) ((r.segmentAt l).frameBytes s.mem)])) := by
  have hstep : s.writeStep p r = some (.next (s.writeSegment p r l)) := by
    obtain rfl | rfl | rfl := hl <;> simp only [State.writeStep, hat]
  have hwrote := State.wrote_eq r hph hat (by obtain rfl | rfl | rfl := hl <;> decide)
    [.memr (.port p) (r.segmentAt l).base.toNat (s.mem.read (r.segmentAt l).base.toNat (r.segmentAt l).len.toNat),
      .tx (.port p) ((r.segmentAt l).frameBytes s.mem)]
  rw [hstep, ← hwrote]
  simp only [State.writeSegment, hsent, if_true, State.sendFromMemory, hadm, State.emit, State.transportWrite,
    Segment.frameBytes_of_sent s.mem hsent, List.append_assoc, List.cons_append, List.nil_append]

theorem execWriteCommand_writing (hp : s.hasPort p = true) (hph : (s.port p).phase = .writing) :
    exec (.writeCommand p) s = (s.writeStep p (s.port p).req).getD (.next s) :=
  if_pos ⟨hp, hph⟩

theorem State.sendStep_writing (hph : (s.port p).phase = .writing) :
    s.sendStep p r = (s.writeStep p r).getD (.next (s.completePort p .ok)) := by
  simp only [State.sendStep, hph]

theorem bytes32_h2nSyncValue : bytes32 h2nSyncValue = [0x21#8, 0x43#8, 0x34#8, 0x12#8] := by decide

end

/-- Settles O13: each label's step of WRITE_COMMAND. -/
theorem writeCommandSteps : Obligations.WriteCommandSteps := by
  intro s p hp hph r next segment
  have hnext {at_ : Phase × WriteLabel} {es : List Event} (h : s.writeStep p r = some (.next (s.sending p at_ es))) :
      next at_ es := by
    refine (execWriteCommand_writing hp hph).trans ?_
    rw [h]
    rfl
  have hsegment {l : WriteLabel} (hl : l = .w3 ∨ l = .w4 ∨ l = .w5) (hat : (s.port p).wlabel = l) :
      segment (r.segmentAt l) (r.standsAfter l (r.leftAfter l)) := by
    intro hpres hlen hadm
    have hsent : (r.segmentAt l).sent = true := Segment.sent_iff.mpr ⟨hpres, hlen⟩
    have hstep := State.writeStep_segment (s := s) (p := p) (r := r) hl hph hat hsent hadm
    rw [Segment.frameBytes_of_sent s.mem hsent] at hstep
    exact hnext hstep
  refine ⟨fun hl hlen => ?_, fun hl => hnext (State.writeStep_w2 hph hl), hsegment (.inl rfl),
    hsegment (.inr (.inl rfl)), hsegment (.inr (.inr rfl))⟩
  have hstep := State.writeStep_w1 (s := s) (p := p) hph hl hlen
  rw [bytes32_h2nSyncValue] at hstep
  exact hnext hstep

/-! ## The run of a frame's writes -/

/-- The operation runs port p's writes for the request, one a step. -/
def RunsWrites (i : Instr) (s : State) (p : Port) (r : Request) : Prop :=
  ∀ (at_ : Phase × WriteLabel) (es : List Event) (u : State), at_.1 = .writing →
    (s.sending p at_ es).writeStep p r = some (.next u) → exec i (s.sending p at_ es) = .next u

/-- How many of the segments are sent. -/
def sentIn (left : List (Segment × WriteLabel)) : Nat := left.countP fun g => g.1.sent

/-- What the segments add to the frame. -/
def frameBytesOf (m : Memory) (left : List (Segment × WriteLabel)) : List Byte := left.flatMap fun g => g.1.frameBytes m

theorem sentBytesOf_send (a b : Agent) (addr : Nat) (bytes sent : List Byte) :
    sentBytesOf [.memr a addr bytes, .tx b sent] = sent := by
  simp [sentBytesOf, Event.sentBytes]

/-- From where a write leaves the port, one step for each segment that is still sent takes it past its last write. -/
def FinishesWrites (i : Instr) (s : State) (p : Port) (r : Request) (left : List (Segment × WriteLabel)) : Prop :=
  ∀ (l : WriteLabel) (es : List Event), ∃ (l' : WriteLabel) (fs : List Event),
    repeatExec i (sentIn left) (s.sending p (r.standsAfter l left) es) =
      .next (s.sending p (if r.exp then .waiting else .writing, l') fs) ∧
    (r.exp = false → l' = .s4) ∧ sentBytesOf fs = sentBytesOf es ++ frameBytesOf s.mem left

section
variable {i : Instr} {s : State} {p : Port} {r : Request}

theorem finishesWrites_nil : FinishesWrites i s p r [] := by
  intro l es
  refine ⟨if r.exp then l else .s4, es, ?_, fun he => by simp [he], (List.append_nil _).symm⟩
  cases he : r.exp <;> simp [Request.standsAfter, he, sentIn, repeatExec]

theorem FinishesWrites.cons {l : WriteLabel} (hrun : RunsWrites i s p r) (hl : l = .w3 ∨ l = .w4 ∨ l = .w5)
    (hadm : (r.segmentAt l).sent = true →
      admitted s.cfg (r.segmentAt l).base.toNat (r.segmentAt l).len.toNat = true)
    (hrest : FinishesWrites i s p r (r.leftAfter l)) :
    FinishesWrites i s p r ((r.segmentAt l, l) :: r.leftAfter l) := by
  intro l0 es
  cases hsent : (r.segmentAt l).sent with
  | false =>
    obtain ⟨l', fs, hrep, hs4, hbytes⟩ := hrest l0 es
    refine ⟨l', fs, ?_, hs4, ?_⟩
    · rw [← hrep]
      simp [sentIn, Request.standsAfter, hsent]
    · rw [hbytes]
      simp [frameBytesOf, Segment.frameBytes, hsent]
  | true =>
    have hstep := State.writeStep_segment (s := s.sending p (.writing, l) es) (p := p) (r := r) hl
      (by rw [State.port_sending]) (by rw [State.port_sending]) hsent (hadm hsent)
    rw [State.sending_sending] at hstep
    obtain ⟨l', fs, hrep, hs4, hbytes⟩ := hrest l _
    refine ⟨l', fs, ?_, hs4, ?_⟩
    · have hcount : sentIn ((r.segmentAt l, l) :: r.leftAfter l) = sentIn (r.leftAfter l) + 1 := by
        simp [sentIn, hsent]
      have hstands : r.standsAfter l0 ((r.segmentAt l, l) :: r.leftAfter l) = (.writing, l) := by
        simp [Request.standsAfter, hsent]
      rw [hcount, hstands, repeatExec_succ (hrun _ es _ rfl hstep), hrep]
    · rw [hbytes, sentBytesOf_append, List.append_assoc, sentBytesOf_send]
      rfl

theorem Request.sentCount_eq (r : Request) : r.sentCount = sentIn (r.leftAfter .w2) := by
  simp only [Request.sentCount, sentIn, Request.leftAfter, List.countP_cons, List.countP_nil]
  omega

theorem Request.frame_eq_head (r : Request) (m : Memory) :
    r.frame m = r.frameHead ++ frameBytesOf m (r.leftAfter .w2) := by
  rw [Request.frame_eq]
  rfl

/-- All the writes of a frame: 2 + s steps. -/
theorem repeatExec_writes (hrun : RunsWrites i s p r) (hph : (s.port p).phase = .writing)
    (hl : (s.port p).wlabel = .w1) (hlen : r.bodyLength ≤ 0xFFFF) (hadm : r.admittedSegments s.cfg) :
    ∃ (l : WriteLabel) (es : List Event), repeatExec i (2 + r.sentCount) s =
        .next (s.sending p (if r.exp then .waiting else .writing, l) es) ∧
      (r.exp = false → l = .s4) ∧ sentBytesOf es = r.frame s.mem := by
  have h1 := hrun (.writing, .w1) [] _ rfl
    (State.writeStep_w1 (s := s.sending p (.writing, .w1) []) (by rw [State.port_sending]) (by rw [State.port_sending]) hlen)
  have hstart := State.sending_start hph
  rw [hl] at hstart
  rw [State.sending_sending, hstart, List.nil_append] at h1
  have h2 := hrun (.writing, .w2) [.tx (.port p) (bytes32 h2nSyncValue)] _ rfl
    (State.writeStep_w2 (by rw [State.port_sending]) (by rw [State.port_sending]))
  rw [State.sending_sending] at h2
  obtain ⟨hadm0, hadm1, hadm2⟩ := hadm
  have hsegments : FinishesWrites i s p r (r.leftAfter .w2) :=
    .cons (l := .w3) hrun (by decide) hadm0 (.cons (l := .w4) hrun (by decide) hadm1
      (.cons (l := .w5) hrun (by decide) hadm2 finishesWrites_nil))
  obtain ⟨l, fs, hrep, hs4, hbytes⟩ := hsegments .w2 _
  refine ⟨l, fs, ?_, hs4, ?_⟩
  · rw [show 2 + r.sentCount = r.sentCount + 1 + 1 by omega, repeatExec_succ h1, repeatExec_succ h2, r.sentCount_eq, hrep]
  · rw [hbytes, r.frame_eq_head]
    rfl

theorem runsWrites_writeCommand (hp : s.hasPort p = true) (hr : (s.port p).req = r) :
    RunsWrites (.writeCommand p) s p r := by
  intro at_ es u hat hu
  have hreq : ((s.sending p at_ es).port p).req = r := by rw [State.port_sending]; exact hr
  rw [execWriteCommand_writing (by exact hp) (by rw [State.port_sending]; exact hat), hreq, hu]
  rfl

theorem runsWrites_sendCommand (hm : s.nextMove = .port p) (hp : s.hasPort p = true) (hr : (s.port p).req = r) :
    RunsWrites (.sendCommand r.exp r.cmdOpcode) s p r := by
  intro at_ es u hat hu
  have hreq : ((s.sending p at_ es).port p).req = r := by rw [State.port_sending]; exact hr
  refine (execSendCommand_port (s := s.sending p at_ es) hm hp _ _).trans ?_
  rw [hreq, State.sendStep_writing (by rw [State.port_sending]; exact hat), hu]
  rfl

end

/-- Settles O14: W1 and W2, then a step for each segment that is sent. -/
theorem writeCommandEmitsFrame : Obligations.WriteCommandEmitsFrame := by
  intro s p hp hph hl hlen hadm r
  obtain ⟨l, es, hrep, hs4, hbytes⟩ := repeatExec_writes (runsWrites_writeCommand hp rfl) hph hl hlen hadm
  exact ⟨_, l, hrep, (State.outbound_of_history rfl).trans (congrArg _ hbytes), hs4, rfl⟩

/-- Settles O29: the writes, then S4. -/
theorem sendWithoutResponseRuns : Obligations.SendWithoutResponseRuns := by
  intro s p hm hp hph hl hexp hlen hadm r
  obtain ⟨l, es, hrep, hs4, hbytes⟩ := repeatExec_writes (runsWrites_sendCommand hm hp rfl) hph hl hlen hadm
  obtain rfl := hs4 hexp
  simp only [hexp, Bool.false_eq_true, if_false] at hrep
  have hnone : (s.sending p (.writing, .s4) es).writeStep p r = none :=
    State.writeStep_eq_none.mpr (by rw [State.port_sending])
  have hreq : ((s.sending p (.writing, .s4) es).port p).req = r := by rw [State.port_sending]
  have hlast : exec (.sendCommand false r.cmdOpcode) (s.sending p (.writing, .s4) es) =
      .next ((s.sending p (.writing, .s4) es).completePort p .ok) := by
    refine (execSendCommand_port (s := s.sending p (.writing, .s4) es) hm hp _ _).trans ?_
    have hsame : { r with exp := false, cmdOpcode := r.cmdOpcode } = r := by rw [← hexp]
    rw [hreq, hsame, State.sendStep_writing (by rw [State.port_sending]), hnone]
    rfl
  refine ⟨_, ((repeatExec_add hrep 1).trans (repeatExec_succ hlast 0)),
    (State.outbound_of_history (es := es) rfl).trans (congrArg _ hbytes), ?_⟩
  rw [State.completePort, State.port_sending]
  exact congrArg (fun t : State => { t with history := s.history ++ es }) (State.setPort_setPort s p _ _)

/-- Where no port that exists is to move, a SEND_COMMAND is no step. -/
theorem exec_sendCommand_none {s : State} (h : ∀ p, s.nextMove = .port p → s.hasPort p = false) (e : Bool) (o : Half) :
    exec (.sendCommand e o) s = .next s := by
  change execSendCommand e o s = _
  cases hm : s.nextMove with
  | port p => simp only [execSendCommand, hm, h p hm, Bool.false_eq_true, if_false]
  | _ => simp only [execSendCommand, hm]

/-- Only REGISTER's step of a SEND_COMMAND writes resp_done. -/
theorem PortStep.respDone {s u : State} {p : Port} {r : Request} (h : PortStep s p r u)
    (hph : (s.port p).phase ≠ .registering) (q : Port) : (u.port q).respDone = (s.port q).respDone := by
  have hsame {x : PortState} (hx : x.respDone = (s.port p).respDone) :
      ((s.setPort p x).port q).respDone = (s.port q).respDone := by
    by_cases hq : p = q
    · rw [← hq, State.port_setPort_self, hx]
    · rw [State.port_setPort_ne _ _ hq]
  cases h with
  | registers i hp _ => contradiction
  | writes ph l es _ _ _ => exact hsame rfl
  | completes _ => exact hsame rfl
  | waits => rfl

/-- Settles O30: REGISTER, then the writes; no other step of a SEND_COMMAND writes resp_done. -/
theorem sendWithResponseRuns : Obligations.SendWithResponseRuns := by
  refine ⟨fun s p i hm hp hph hexp hlen hadm hi hlt => ?_, fun s t p e o hm hph ht q => ?_⟩
  · intro r
    have hexec : exec (.sendCommand true r.cmdOpcode) s = .next ((s.setSlot i
        { valid := true, entry := r.entry, owner := p }).setPort p
        { s.port p with respDone := false, phase := .writing, wlabel := .w1 }) := by
      have hsame : { r with exp := true, cmdOpcode := r.cmdOpcode } = r := by rw [← hexp]
      refine (execSendCommand_port hm hp _ _).trans ?_
      rw [hsame, State.sendStep_registering hph, State.sendRegister_of_free (State.freeSlot_eq_some hi hlt)]
    generalize hu : (s.setSlot i _).setPort p _ = u at hexec
    have hport : u.port p = { s.port p with respDone := false, phase := .writing, wlabel := .w1 } := by
      rw [← hu]
      exact State.port_setPort_self ..
    have hreq : (u.port p).req = r := by rw [hport]
    obtain ⟨l, es, hrep, -, hbytes⟩ := repeatExec_writes (s := u) (p := p) (r := r)
      (runsWrites_sendCommand (by rw [← hu]; exact hm) (by rw [← hu]; exact hp) hreq) (by rw [hport]) (by rw [hport])
      hlen (by rw [← hu]; exact hadm)
    rw [hexp] at hrep
    refine ⟨⟨u, hexec, by rw [hport], by rw [hport]⟩, u.sending p (.waiting, l) es, l, ?_, ?_, ?_⟩
    · exact (congrArg (repeatExec _ · s) (Nat.add_comm 1 _)).trans ((repeatExec_succ hexec _).trans hrep)
    · subst hu
      exact (State.outbound_of_history rfl).trans (congrArg _ hbytes)
    · rw [State.sending, hport]
      subst hu
      exact congrArg (fun t : State => { t with history := s.history ++ es }) (State.setPort_setPort _ p _ _)
  · cases hp : s.hasPort p with
    | false =>
      rw [exec_sendCommand_none (fun x hx => by rw [hm] at hx; cases hx; exact hp)] at ht
      cases ht
      rfl
    | true =>
      exact (State.sendStep_cases ((execSendCommand_port hm hp e o).symm.trans ht)).respDone hph q

/-! ## What the operations refuse -/

theorem State.writeStep_isNext (s : State) (p : Port) (r : Request) :
    (∃ u, s.writeStep p r = some (.next u)) ∨ s.writeStep p r = none ∨
      (s.port p).wlabel = .w1 ∧ 0xFFFF < r.bodyLength ∧ s.writeStep p r = some (.refused .lengthOverflow) := by
  cases hl : (s.port p).wlabel with
  | w1 =>
    by_cases hlen : 0xFFFF < r.bodyLength
    · exact .inr (.inr ⟨rfl, hlen, State.writeStep_overflow hl hlen⟩)
    · exact .inl ⟨_, by simp only [State.writeStep, hl, if_neg hlen]; rfl⟩
  | w2 | w3 | w4 | w5 => exact .inl ⟨_, by simp only [State.writeStep, hl]; rfl⟩
  | s4 => exact .inr (.inl (State.writeStep_eq_none.mpr hl))

theorem State.sendStep_isNext {s : State} {p : Port} (hph : (s.port p).phase ≠ .writing) (r : Request) :
    ∃ t, s.sendStep p r = .next t := by
  unfold State.sendStep
  split
  · exact ⟨_, rfl⟩
  · exact ⟨_, rfl⟩
  · contradiction
  · split <;> exact ⟨_, rfl⟩
  · exact ⟨_, rfl⟩

/-- The operations but the two that run WRITE_COMMAND always have a next state. -/
theorem exec_isNext {i : Instr} (s : State) (h1 : ∀ p, i ≠ .writeCommand p) (h2 : ∀ e o, i ≠ .sendCommand e o) :
    ∃ t, exec i s = .next t := by
  cases i with
  | sendCommand e o => exact absurd rfl (h2 e o)
  | writeCommand p => exact absurd rfl (h1 p)
  | powerOn | powerOff | illegal | h2nSyncWord | n2hSyncWord | frameHeader | register | submit | complete | onNwpIrq =>
    simp only [exec, execPowerOn, execPowerOff, execIllegal, execH2nSyncWord, execN2hSyncWord, execFrameHeader,
      execRegister, execSubmit, execComplete, execOnNwpIrq]
    repeat' split
    all_goals exact ⟨_, rfl⟩
  | h2nCnysWord | locate | readResponseBody | drain | resolve | remove => exact ⟨_, rfl⟩

/-- Settles O16: W1's test of the length is the only branch of any operation without a next state. -/
theorem refusedOnlyForLength : Obligations.RefusedOnlyForLength := by
  refine ⟨fun s p hp hph hl hlen => ?_, fun i s => ?_⟩
  · have hsend (hm : s.nextMove = .port p) (e : Bool) (o : Half) :
        exec (.sendCommand e o) s = .refused .lengthOverflow := by
      refine (execSendCommand_port hm hp e o).trans ?_
      rw [State.sendStep_writing hph, State.writeStep_overflow hl (by exact hlen)]
      rfl
    refine ⟨?_, hsend, fun hm hop => ?_⟩
    · rw [execWriteCommand_writing hp hph, State.writeStep_overflow hl hlen]
      rfl
    · simp only [step, State.fetch_port hm hp (.inr (.inl hph)) hop, hsend hm, mapNext]
  · by_cases hw : ∃ p, i = .writeCommand p
    · obtain ⟨p, rfl⟩ := hw
      by_cases hat : s.hasPort p = true ∧ (s.port p).phase = .writing
      · obtain ⟨hp, hph⟩ := hat
        rw [execWriteCommand_writing hp hph]
        obtain ⟨u, hu⟩ | hu | ⟨hl, hlen, hu⟩ := s.writeStep_isNext p (s.port p).req <;> rw [hu]
        · exact .inl ⟨u, rfl⟩
        · exact .inl ⟨s, rfl⟩
        · exact .inr ⟨rfl, p, hp, hph, hl, hlen, .inl rfl⟩
      · exact .inl ⟨s, if_neg hat⟩
    · by_cases hs : ∃ e o, i = .sendCommand e o
      · obtain ⟨e, o, rfl⟩ := hs
        by_cases hm : ∃ p, s.nextMove = .port p ∧ s.hasPort p = true
        · obtain ⟨p, hm, hp⟩ := hm
          have hexec : exec (.sendCommand e o) s = _ := execSendCommand_port hm hp e o
          rw [hexec]
          by_cases hph : (s.port p).phase = .writing
          · rw [State.sendStep_writing hph]
            obtain ⟨u, hu⟩ | hu | ⟨hl, hlen, hu⟩ := s.writeStep_isNext p _ <;> rw [hu]
            · exact .inl ⟨u, rfl⟩
            · exact .inl ⟨_, rfl⟩
            · exact .inr ⟨rfl, p, hp, hph, hl, hlen, .inr ⟨e, o, rfl, hm⟩⟩
          · exact .inl (State.sendStep_isNext hph _)
        · exact .inl ⟨s, exec_sendCommand_none (fun p hp => by simpa using fun h => hm ⟨p, hp, h⟩) e o⟩
      · exact .inl (exec_isNext s (fun p h => hw ⟨p, h⟩) fun e o h => hs ⟨e, o, h⟩)

end Sys2Proof.Machine

/-! READ_RESPONSE_BODY as a whole (42_codec.md sections 2 and 3). -/

namespace Sys2Proof.Machine

/-! ## One step -/

theorem State.readToMemory_of_admitted {s : State} {addr n : Nat} (h : admitted s.cfg addr n = true) :
    s.readToMemory addr n = some { s with
      inbound := s.inbound.drop n
      consumed := s.consumed + n
      mem := s.mem.write addr (s.streamBytes n)
      history := s.history ++ [.rx .rx (s.streamBytes n), .memw .rx addr (s.streamBytes n)] } := by
  rw [State.readToMemory, if_pos h]
  simp only [State.transportRead, State.consume, State.emit, List.append_assoc, List.cons_append, List.nil_append]

theorem exec_readResponseBody {s t : State} (h : s.bodyStep = some t) : exec .readResponseBody s = .next t := by
  change execReadResponseBody s = _
  rw [execReadResponseBody, h]
  rfl

theorem exec_onNwpIrq_body {s t : State} (hl : s.rx.label = .b2 ∨ s.rx.label = .b3 ∨ s.rx.label = .d1)
    (h : s.bodyStep = some t) : exec .onNwpIrq s = .next t := by
  refine (execOnNwpIrq_body hl).trans ?_
  rw [h]
  rfl

/-- The bytes of a buffer after they are stored, and those outside it. -/
theorem Memory.get_write_stream {s : State} {addr n : Nat} (hm : s.mem.wf = true) (hadm : admitted s.cfg addr n = true) :
    (∀ j, j < n → (s.mem.write addr (s.streamBytes n)).get (addr + j) = s.streamByte j) ∧
      ∀ a, a < addr ∨ addr + n ≤ a → (s.mem.write addr (s.streamBytes n)).get a = s.mem.get a := by
  refine ⟨fun j hj => ?_, fun a ha => Memory.get_write_admitted hm hadm (s.length_streamBytes n) ha⟩
  have hbound := admitted_bound hadm (by omega)
  rw [Memory.get_write_inside hm (by rw [State.length_streamBytes]; exact hbound)
    (by rw [State.length_streamBytes]; exact hj)]
  simp [State.streamBytes]

/-- Settles O19: an admitted read into a buffer, then the updates that write the RX engine only. -/
theorem bodyStoreStep : Obligations.BodyStoreStep := by
  intro s i addr n hm hi hat hadm
  obtain ⟨hinside, houtside⟩ := Memory.get_write_stream hm hadm
  have hread := State.readToMemory_of_admitted hadm
  rw [State.streamAt_zero]
  have hlabel : s.rx.label = .b2 ∨ s.rx.label = .b3 ∨ s.rx.label = .d1 := by
    obtain ⟨hl, -⟩ | ⟨hl, -⟩ := hat
    · exact .inl hl
    · exact .inr (.inl hl)
  have hstep : ∃ (c : Word) (l : RxLabel) (d r : Nat), s.bodyStep = some { s with
      inbound := s.inbound.drop n
      consumed := s.consumed + n
      mem := s.mem.write addr (s.streamBytes n)
      cntOverflow := c
      history := s.history ++ [.rx .rx (s.streamBytes n), .memw .rx addr (s.streamBytes n)]
      rx := { s.rx with label := l, rem := r, drainLeft := d } } := by
    obtain ⟨hl, rfl, rfl⟩ | ⟨hl, rfl, rfl⟩ := hat
    · obtain ⟨c, l, d, r, -, -, h⟩ := State.bodyB3_eq { s with
        inbound := _, consumed := _, mem := _, history := _ } (s.slot i).entry
      exact ⟨c, l, d, r, (State.bodyStep_b2 hl hi).trans (by rw [hread, Option.map_some, h])⟩
    · obtain ⟨c, l, d, -, -, h⟩ := State.bodyB4_eq { s with
        inbound := _, consumed := _, mem := _, history := _, rx := { s.rx with rem := _ } }
      have hread' : s.readToMemory (s.slot i).entry.pbase.toNat (payloadRead (s.slot i).entry s.rx.rem) = _ := hread
      exact ⟨c, l, d, _, (State.bodyStep_b3 hl hi).trans (by rw [hread', Option.map_some, h])⟩
  obtain ⟨c, l, d, r, hstep⟩ := hstep
  exact ⟨_, exec_readResponseBody hstep, exec_onNwpIrq_body hlabel hstep, hinside, houtside, rfl⟩

/-! ## Runs -/

/-- n steps of READ_RESPONSE_BODY behind B1 lead from one state to the other. -/
inductive BodyRun : State → Nat → State → Prop where
  | here {s : State} : BodyRun s 0 s
  | read {s t u : State} {n : Nat} (hl : s.rx.label = .b2 ∨ s.rx.label = .b3 ∨ s.rx.label = .d1)
      (hu : s.bodyStep = some u) (h : BodyRun u n t) : BodyRun s (n + 1) t

theorem BodyRun.alone {s t : State} {n : Nat} (h : BodyRun s n t) : repeatExec .readResponseBody n s = .next t := by
  induction h with
  | here => rfl
  | read _ hu _ ih => rw [repeatExec_succ (exec_readResponseBody hu), ih]

theorem BodyRun.inHandler {s t : State} {n : Nat} (h : BodyRun s n t) : repeatExec .onNwpIrq n s = .next t := by
  induction h with
  | here => rfl
  | read hl hu _ ih => rw [repeatExec_succ (exec_onNwpIrq_body hl hu), ih]

/-- The state after n bytes of a body were taken: what its steps change, and the RX engine's fields. -/
def State.delivered (s : State) (n : Nat) (es : List Event) (m : Memory) (c : Word) (x : RxState) : State :=
  { s with
    inbound := s.inbound.drop n, consumed := s.consumed + n, history := s.history ++ es, mem := m, cntOverflow := c, rx := x }

theorem State.delivered_delivered (s : State) (n k : Nat) (es fs : List Event) (m m' : Memory) (c c' : Word)
    (x y : RxState) :
    (s.delivered n es m c x).delivered k fs m' c' y = s.delivered (n + k) (es ++ fs) m' c' y := by
  simp only [State.delivered, List.drop_drop, Nat.add_assoc, List.append_assoc]

theorem State.streamAt_delivered (s : State) (n : Nat) (es : List Event) (m : Memory) (c : Word) (x : RxState)
    (j k : Nat) : (s.delivered n es m c x).streamAt j k = s.streamAt (n + j) k :=
  List.map_congr_left fun i _ => by
    rw [State.streamByte_of_consumed (s := s) (t := s.delivered n es m c x) (n := n) rfl rfl, Nat.add_assoc]

theorem State.delivered_zero (s : State) (x : RxState) :
    s.delivered 0 [] s.mem s.cntOverflow x = { s with rx := x } := by
  simp only [State.delivered, List.append_nil]
  rfl

/-- The state after n bytes went to a host buffer. -/
def State.stored (s : State) (addr n : Nat) (x : RxState) : State :=
  s.delivered n [.rx .rx (s.streamBytes n), .memw .rx addr (s.streamBytes n)] (s.mem.write addr (s.streamBytes n))
    s.cntOverflow x

/-! ### DRAIN -/

theorem drainSteps_zero {c : Params} (hc : 0 < c.scratchBytes) : drainSteps c 0 = 0 :=
  Nat.div_eq_of_lt (by omega)

theorem drainSteps_pos {c : Params} (hc : 0 < c.scratchBytes) {n : Nat} (hn : 0 < n) :
    drainSteps c n = drainSteps c (n - min n c.scratchBytes) + 1 := by
  obtain h | h := Nat.le_total n c.scratchBytes
  · rw [Nat.min_eq_left h, Nat.sub_self, drainSteps_zero hc, drainSteps]
    exact Nat.div_eq_of_lt_le (by omega) (by omega)
  · rw [Nat.min_eq_right h, drainSteps, drainSteps, ← Nat.add_div_right _ hc]
    congr 1
    omega

theorem State.thenDrain_zero (s : State) {n : Nat} (hn : n = 0) : s.thenDrain n = s.bodyDone := if_pos hn

theorem State.thenDrain_pos (s : State) {n : Nat} (hn : 0 < n) :
    s.thenDrain n = { s with rx := { s.rx with drainLeft := n, label := .d1 } } :=
  if_neg (Nat.pos_iff_ne_zero.mp hn)

/-- The state after the first c of n bytes to drain. -/
def State.chunkDrained (s : State) (n c : Nat) : State :=
  s.delivered c [.rx .rx (s.streamBytes c)] s.mem s.cntOverflow { s.rx with
    label := .d1, drainLeft := n - c, scratch := s.streamBytes c ++ s.rx.scratch.drop c }

/-- A chunk of DRAIN is one step, after which the rest is drained. -/
theorem State.bodyStep_drain (s : State) {n : Nat} (hn : 0 < n) :
    (s.thenDrain n).bodyStep = some ((s.chunkDrained n (min n s.cfg.scratchBytes)).thenDrain
      (n - min n s.cfg.scratchBytes)) := by
  rw [State.thenDrain_pos s hn, State.bodyStep_d1 rfl]
  change some (if (State.drainChunk _ n).rx.drainLeft = 0 then (State.drainChunk _ n).bodyDone
    else State.drainChunk _ n) = _
  rw [State.drainChunk_pos _ hn]
  obtain h | h := Nat.eq_zero_or_pos (n - min n s.cfg.scratchBytes)
  · rw [if_pos (by exact h), State.thenDrain_zero _ h]
    rfl
  · rw [if_neg (by exact Nat.pos_iff_ne_zero.mp h), State.thenDrain_pos _ h]
    rfl

/-- DRAIN of n bytes to its end. -/
theorem BodyRun.drain {s : State} (hc : 0 < s.cfg.scratchBytes) (n : Nat) :
    ∃ (es : List Event) (d : Nat) (scratch : List Byte), BodyRun (s.thenDrain n) (drainSteps s.cfg n)
      (s.delivered n es s.mem s.cntOverflow { s.rx with
        label := if s.rx.slot.isSome then .h4 else .h5, drainLeft := d, scratch := scratch }) := by
  induction n using Nat.strongRecOn generalizing s with
  | _ n ih =>
    obtain h0 | hn := Nat.eq_zero_or_pos n
    · refine ⟨[], s.rx.drainLeft, s.rx.scratch, ?_⟩
      rw [h0, State.delivered_zero, drainSteps_zero hc]
      exact .here
    · have hlt : n - min n s.cfg.scratchBytes < n := by omega
      obtain ⟨es, d, scratch, hrun⟩ := ih _ hlt (s := s.chunkDrained n (min n s.cfg.scratchBytes)) hc
      have hread := BodyRun.read (.inr (.inr (by rw [State.thenDrain_pos s hn]))) (s.bodyStep_drain hn) hrun
      rw [State.chunkDrained, State.delivered_delivered, Nat.add_sub_cancel' (Nat.min_le_left ..)] at hread
      rw [drainSteps_pos hc hn]
      exact ⟨_, d, scratch, hread⟩

/-! ### The parts of a body -/

section
variable {s : State} {i : SlotIx}

/-- B4: an overflow is counted once and drained. -/
theorem BodyRun.overflow (hc : 0 < s.cfg.scratchBytes) (hi : s.rx.slot = some i) :
    ∃ (es : List Event) (d : Nat) (scratch : List Byte), BodyRun s.bodyB4 (drainSteps s.cfg s.rx.rem)
      (s.delivered s.rx.rem es s.mem (if 0 < s.rx.rem then s.cntOverflow + 1#32 else s.cntOverflow) { s.rx with
        label := .h4, drainLeft := d, scratch := scratch }) := by
  have hlabel : (if s.rx.slot.isSome then RxLabel.h4 else .h5) = .h4 := by rw [hi]; rfl
  obtain h0 | hpos := Nat.eq_zero_or_pos s.rx.rem
  · refine ⟨[], s.rx.drainLeft, s.rx.scratch, ?_⟩
    rw [State.bodyB4, if_pos h0, h0, if_neg (by decide), State.delivered_zero, drainSteps_zero hc, ← hlabel]
    exact .here
  · obtain ⟨es, d, scratch, hrun⟩ := BodyRun.drain (s := { s with cntOverflow := s.cntOverflow + 1#32 }) hc s.rx.rem
    refine ⟨es, d, scratch, ?_⟩
    rw [State.bodyB4, if_neg (Nat.pos_iff_ne_zero.mp hpos), if_pos hpos, ← hlabel]
    exact hrun

/-- B3: the payload goes to its buffer, then B4. -/
theorem BodyRun.payload (hc : 0 < s.cfg.scratchBytes) (hi : s.rx.slot = some i) {e : Entry}
    (he : (s.slot i).entry = e)
    (hadm : admitted s.cfg e.pbase.toNat (payloadBytes e s.rx.rem) = true) :
    ∃ (es : List Event) (d : Nat) (scratch : List Byte),
      BodyRun (s.bodyB3 e)
        ((if 0 < payloadBytes e s.rx.rem then 1 else 0) + drainSteps s.cfg (overflowBytes e s.rx.rem))
        (s.delivered (payloadBytes e s.rx.rem + overflowBytes e s.rx.rem) es
          (s.mem.write e.pbase.toNat (s.streamBytes (payloadBytes e s.rx.rem)))
          (if 0 < overflowBytes e s.rx.rem then s.cntOverflow + 1#32 else s.cntOverflow)
          { s.rx with label := .h4, rem := overflowBytes e s.rx.rem, drainLeft := d, scratch := scratch }) := by
  obtain h0 | hpos := Nat.eq_zero_or_pos (payloadBytes e s.rx.rem)
  · obtain ⟨es, d, scratch, hrun⟩ :=
      BodyRun.overflow (s := { s with rx := { s.rx with rem := overflowBytes e s.rx.rem } }) hc hi
    refine ⟨es, d, scratch, ?_⟩
    rw [State.bodyB3, if_pos (by exact h0), h0, if_neg (by decide), Nat.zero_add, Nat.zero_add]
    exact hrun
  · have hlabel : s.bodyB3 e = { s with rx := { s.rx with label := .b3 } } :=
      if_neg (by exact Nat.pos_iff_ne_zero.mp hpos)
    have hstep : (s.bodyB3 e).bodyStep = some (s.stored e.pbase.toNat (payloadBytes e s.rx.rem)
        { s.rx with label := .b3, rem := overflowBytes e s.rx.rem }).bodyB4 := by
      rw [hlabel, State.bodyStep_b3 (i := i) rfl (by exact hi)]
      subst he
      exact congrArg (Option.map _) (State.readToMemory_of_admitted (by exact hadm))
    obtain ⟨es, d, scratch, hrun⟩ := BodyRun.overflow (s := s.stored e.pbase.toNat (payloadBytes e s.rx.rem)
      { s.rx with label := .b3, rem := overflowBytes e s.rx.rem }) hc hi
    have hread := BodyRun.read (.inr (.inl (by rw [hlabel]))) hstep hrun
    rw [State.stored, State.delivered_delivered] at hread
    rw [if_pos hpos, Nat.add_comm 1]
    exact ⟨_, d, scratch, hread⟩

/-- B1 and B2: the descriptor goes to its buffer, then B3. -/
theorem BodyRun.body (hc : 0 < s.cfg.scratchBytes) (hi : s.rx.slot = some i) {e : Entry} (he : (s.slot i).entry = e)
    {rem0 p o : Nat} (hrem : remainder e s.rx.len = rem0) (hp : payloadBytes e rem0 = p) (ho : overflowBytes e rem0 = o)
    (hadmd : admitted s.cfg e.dbase.toNat e.dcap.toNat = true) (hadmp : admitted s.cfg e.pbase.toNat p = true) :
    ∃ (es : List Event) (d : Nat) (scratch : List Byte),
      BodyRun s.bodyB1 ((if 0 < e.dcap.toNat then 1 else 0) + (if 0 < p then 1 else 0) + drainSteps s.cfg o)
        (s.delivered (e.dcap.toNat + p + o) es
          ((s.mem.write e.dbase.toNat (s.streamAt 0 e.dcap.toNat)).write e.pbase.toNat (s.streamAt e.dcap.toNat p))
          (if 0 < o then s.cntOverflow + 1#32 else s.cntOverflow)
          { s.rx with label := .h4, rem := o, drainLeft := d, scratch := scratch }) := by
  subst hp ho
  rw [State.bodyB1_some hi, he, hrem, State.streamAt_zero]
  by_cases h0 : e.dcap = 0#16
  · have hd : e.dcap.toNat = 0 := congrArg BitVec.toNat h0
    obtain ⟨es, d, scratch, hrun⟩ :=
      BodyRun.payload (s := { s with rx := { s.rx with rem := rem0 } }) hc hi he hadmp
    rw [if_pos h0, hd, if_neg (by decide), Nat.zero_add, Nat.zero_add, State.streamAt_zero]
    exact ⟨es, d, scratch, hrun⟩
  · have hpos : 0 < e.dcap.toNat := Nat.pos_of_ne_zero fun h => h0 (BitVec.eq_of_toNat_eq h)
    have hstep : State.bodyStep { s with rx := { s.rx with rem := rem0, label := .b2 } } =
        some ((s.stored e.dbase.toNat e.dcap.toNat { s.rx with rem := rem0, label := .b2 }).bodyB3 e) := by
      rw [State.bodyStep_b2 (i := i) rfl (by exact hi)]
      subst he
      exact congrArg (Option.map _) (State.readToMemory_of_admitted (by exact hadmd))
    obtain ⟨es, d, scratch, hrun⟩ := BodyRun.payload
      (s := s.stored e.dbase.toNat e.dcap.toNat { s.rx with rem := rem0, label := .b2 }) hc hi he hadmp
    have hread := BodyRun.read (.inl rfl) hstep hrun
    rw [← State.streamAt_zero, State.stored, State.delivered_delivered, State.streamAt_delivered, Nat.add_zero,
      ← Nat.add_assoc] at hread
    rw [if_neg h0, if_pos hpos, Nat.add_assoc 1, Nat.add_comm 1]
    exact ⟨_, d, scratch, hread⟩

/-- Without a slot the whole body is counted once and drained. -/
theorem BodyRun.unmatched (hc : 0 < s.cfg.scratchBytes) (hi : s.rx.slot = none) :
    ∃ (es : List Event) (d : Nat) (scratch : List Byte), BodyRun s.bodyB1 (drainSteps s.cfg s.rx.len.toNat)
      (({ s with cntNoMatch := s.cntNoMatch + 1#32 } : State).delivered s.rx.len.toNat es s.mem s.cntOverflow { s.rx with
        label := .h5, drainLeft := d, scratch := scratch }) := by
  have hlabel : (if s.rx.slot.isSome then RxLabel.h4 else .h5) = .h5 := by rw [hi]; rfl
  obtain ⟨es, d, scratch, hrun⟩ :=
    BodyRun.drain (s := { s with cntNoMatch := s.cntNoMatch + 1#32 }) hc s.rx.len.toNat
  rw [State.bodyB1_none hi, ← hlabel]
  exact ⟨es, d, scratch, hrun⟩

end

theorem exec_readResponseBody_b1 {s : State} (hl : s.rx.label = .b1) : exec .readResponseBody s = .next s.bodyB1 :=
  exec_readResponseBody (by simp only [State.bodyStep, hl])

theorem Memory.wf_write_admitted {m : Memory} {c : Params} {addr n : Nat} {bytes : List Byte} (hm : m.wf = true)
    (hadm : admitted c addr n = true) (hlen : bytes.length = n) : (m.write addr bytes).wf = true := by
  obtain h0 | hn := Nat.eq_zero_or_pos n
  · rw [List.length_eq_zero_iff.mp (hlen.trans h0), Memory.write_nil]
    exact hm
  · exact Memory.wf_write hm (by rw [hlen]; exact admitted_bound hadm hn)

theorem State.length_streamAt (s : State) (j n : Nat) : (s.streamAt j n).length = n := by simp [State.streamAt]

/-- How the bytes behind the descriptor are shared out (42_codec.md rules R247 to R249). -/
theorem payloadBytes_add_overflowBytes (e : Entry) (rem0 : Nat) :
    (rem0 < payloadCap e → payloadBytes e rem0 + overflowBytes e rem0 = align4 rem0) ∧
      (payloadCap e ≤ rem0 → payloadBytes e rem0 + overflowBytes e rem0 = rem0) := by
  unfold payloadBytes overflowBytes
  split <;> omega

/-- Settles O20: B1, then the descriptor, the payload and the drained rest. -/
theorem responseBodyConsumed : Obligations.ResponseBodyConsumed := by
  refine ⟨?_, ?_⟩
  · intro s hc hl hi n
    obtain ⟨es, d, scratch, hrun⟩ := BodyRun.unmatched (scratchBytes_pos hc) hi
    have hrep := (repeatExec_succ (exec_readResponseBody_b1 hl) _).trans hrun.alone
    rw [Nat.add_comm] at hrep
    exact ⟨_, hrep, rfl⟩
  · intro s i hc hm hl hi e d rem0 p o hadmd hadmp
    obtain ⟨es, d', scratch, hrun⟩ :=
      BodyRun.body (scratchBytes_pos hc) hi (e := e) rfl (rem0 := rem0) rfl rfl rfl hadmd hadmp
    obtain ⟨hlt, hge⟩ := payloadBytes_add_overflowBytes e rem0
    have halign := le_align4 rem0
    have hrep := (repeatExec_succ (exec_readResponseBody_b1 hl) _).trans hrun.alone
    rw [Nat.add_comm _ 1, ← Nat.add_assoc, ← Nat.add_assoc] at hrep
    refine ⟨_, hrep, ?_, hlt, hge, rfl, fun a had hap => ?_, rfl⟩
    · omega
    · have hwf := Memory.wf_write_admitted hm hadmd (s.length_streamAt 0 d)
      refine (Memory.get_write_admitted hwf hadmp (s.length_streamAt d p) hap).trans ?_
      exact Memory.get_write_admitted hm hadmd (s.length_streamAt 0 d) had

end Sys2Proof.Machine

/-! Runs of the Receive Handler (45_receive_handler.md rules R360, R366 and R373). -/

namespace Sys2Proof.Machine

/-! ## From H0 to the end of LOCATE -/

/-- The state in which the handler starts to read. -/
def State.entered (s : State) : State :=
  { s with
    irqPending := false
    irqMask := true
    history := s.history ++ [.level .irqMask true]
    rx := { s.rx with phase := .readingHeader, label := .l1 } }

theorem exec_onNwpIrq_h0 {s : State} (hl : s.rx.label = .h0) (hph : s.rx.phase = .idle) (hirq : s.irqPending = true)
    (hmask : s.irqMask = false) : exec .onNwpIrq s = .next s.entered := by
  refine (execOnNwpIrq_h0_enabled hl ?_).trans rfl
  simp [State.irqEnabled, hirq, hmask, hph]

/-- A handler run: H0, LOCATE with what its return leads to, and the rest. -/
theorem repeatExec_handler {s t : State} {n : Nat} (hl : s.rx.label = .h0) (hph : s.rx.phase = .idle)
    (hirq : s.irqPending = true) (hmask : s.irqMask = false) (hrun : LocateRun s.entered n t) (k : Nat) :
    repeatExec .onNwpIrq (1 + n + k) s = repeatExec .onNwpIrq k t.settle := by
  rw [Nat.add_comm 1 n, Nat.add_right_comm, repeatExec_succ (exec_onNwpIrq_h0 hl hph hirq hmask),
    repeatExec_add (hrun.inHandler rfl)]

/-- Return from the handler, at H5. -/
theorem repeatExec_return {s : State} (hl : s.rx.label = .h5) : repeatExec .onNwpIrq 1 s = .next { s with
    irqMask := false
    history := s.history ++ [.level .irqMask false]
    rx := { s.rx with phase := .idle, label := .h0 } } :=
  (repeatExec_succ (i := .onNwpIrq) (execOnNwpIrq_h5 hl) 0).trans rfl

/-- A handler that stands where it stood before its run. -/
theorem State.eq_of_idle {t u : State} (h : t = { u with rx := { u.rx with label := .h0, phase := .idle } })
    (hl : u.rx.label = .h0) (hph : u.rx.phase = .idle) : t = u := by
  rw [h, ← hl, ← hph]

/-- Settles O33: H0, the LOCATE that times out, and H5. -/
theorem syncTimeoutRun : Obligations.SyncTimeoutRun := by
  intro s hl hph hirq hmask hno
  have hrun := LocateRun.timeout (s := s.entered) rfl hno
  have hrep := (repeatExec_handler hl hph hirq hmask hrun 1).trans (repeatExec_return rfl)
  refine ⟨_, hrep, ?_, State.eq_of_idle rfl hl hph⟩
  refine (State.outbound_of_history (s := s)
    (es := [.level .irqMask true] ++ (askEvent :: s.entered.searchReads 11) ++ [.level .irqMask false]) ?_).trans ?_
  · simp only [← List.append_assoc]
    rfl
  · rw [sentBytesOf_append, sentBytesOf_append, asks_searchReads]
    rfl

/-! ## RESOLVE and the body -/

theorem exec_onNwpIrq_h2 {s : State} (hl : s.rx.label = .h2) : exec .onNwpIrq s = .next s.handlerResolve.bodyB1 :=
  (execOnNwpIrq_h2 hl).trans rfl

/-- The state after a LOCATE that read the header S[j .. ] of a frame, with rx_opcode and rx_len. -/
def State.headed (s : State) (n j g : Nat) (es : List Event) : State :=
  { s with
    irqPending := false
    irqMask := true
    txSeqNum := s.txSeqNum + 1#8
    inbound := s.inbound.drop n
    consumed := s.consumed + n
    history := s.history ++ es
    rx := { s.rx with
      label := .h2, phase := .readingHeader, a := g, m := Fin.ofNat 4 g, window := s.windowAt j
      opcode := (s.windowAt j).headerOpcode, len := (s.windowAt j).headerLength } }

/-- A handler run up to RESOLVE. -/
theorem repeatExec_headed {s : State} {g k : Nat} (hl : s.rx.label = .h0) (hph : s.rx.phase = .idle)
    (hirq : s.irqPending = true) (hmask : s.irqMask = false) (hs : s.syncAt g k) :
    ∃ es : List Event, ∀ r, repeatExec .onNwpIrq (1 + locateSteps g k + 1 + r) s = repeatExec .onNwpIrq r
      (s.headed (g + 12 + 4 * k + fillerAfter g) (g + 4 + 4 * k) g es).handlerResolve.bodyB1 := by
  obtain ⟨es, -, hrun⟩ := LocateRun.header (s := s.entered) (g := g) (k := k) rfl hs
  refine ⟨[.level .irqMask true] ++ es, fun r => ?_⟩
  rw [Nat.add_assoc _ 1 r, repeatExec_handler hl hph hirq hmask hrun, Nat.add_comm 1 r,
    ← repeatExec_succ (exec_onNwpIrq_h2 rfl), State.headed, ← List.append_assoc]
  rfl

theorem State.streamAt_headed (s : State) (n j g : Nat) (es : List Event) (i k : Nat) :
    (s.headed n j g es).handlerResolve.streamAt i k = s.streamAt (n + i) k :=
  List.map_congr_left fun x _ => by
    rw [State.streamByte_of_consumed (s := s) (t := (s.headed n j g es).handlerResolve) (n := n) rfl rfl, Nat.add_assoc]

/-- Settles O34: the frame's header, RESOLVE without a match, the whole body drained, and H5. -/
theorem unsolicitedFrameRun : Obligations.UnsolicitedFrameRun := by
  intro s g k hc hl hph hirq hmask hs head len hno
  obtain ⟨es, hrep⟩ := repeatExec_headed hl hph hirq hmask hs
  have hslot : s.resolveSlot head.headerOpcode = none := by
    cases h : s.resolveSlot head.headerOpcode with
    | none => rfl
    | some i =>
      obtain ⟨hv, ho⟩ := State.resolveSlot_some h
      exact absurd ho (hno i hv)
  obtain ⟨fs, d, scratch, hrun⟩ := BodyRun.unmatched
    (s := (s.headed (g + 12 + 4 * k + fillerAfter g) (g + 4 + 4 * k) g es).handlerResolve) (scratchBytes_pos hc) hslot
  have hend := (hrep _).trans ((repeatExec_add hrun.inHandler 1).trans (repeatExec_return rfl))
  refine ⟨_, hend, ?_⟩
  rw [← List.drop_drop, ← Nat.add_assoc s.consumed, ← hslot]
  exact State.eq_of_idle rfl hl hph

theorem State.resolveSlot_of_only {s : State} {op : Half} {i : SlotIx} (hv : (s.slot i).valid = true)
    (ho : (s.slot i).entry.expectedOpcode = op)
    (honly : ∀ j, j ≠ i → (s.slot j).valid = true → (s.slot j).entry.expectedOpcode ≠ op) :
    s.resolveSlot op = some i := by
  cases h : s.resolveSlot op with
  | none => exact absurd ⟨hv, ho⟩ (State.resolveSlot_none h i)
  | some j =>
    obtain ⟨hvj, hoj⟩ := State.resolveSlot_some h
    by_contra hne
    exact honly j (fun e => hne (congrArg some e)) hvj hoj

/-- H4 and H5: the owner's resp_done is set, the slot is freed, and the handler is idle and unmasked. -/
theorem repeatExec_completes {s : State} {i : SlotIx} (hl : s.rx.label = .h4) (hi : s.rx.slot = some i) :
    repeatExec .onNwpIrq 2 s = .next
      { (s.setPort (s.slot i).owner { s.port (s.slot i).owner with respDone := true }).removeSlot i with
        irqMask := false
        history := s.history ++ [.level .irqMask false]
        rx := { s.rx with phase := .idle, label := .h0 } } := by
  have hcomplete : exec .onNwpIrq s = .next { (s.setPort (s.slot i).owner
      { s.port (s.slot i).owner with respDone := true }).removeSlot i with rx := { s.rx with label := .h5 } } :=
    (execOnNwpIrq_h4 hl).trans (congrArg _ (State.handlerComplete_of_some hi))
  rw [repeatExec_succ hcomplete]
  exact repeatExec_return rfl

/-- Settles O35: the frame's header, RESOLVE of slot i, the body to its buffers, H4 and H5. -/
theorem matchedFrameRun : Obligations.MatchedFrameRun := by
  intro s g k i hc hm hl hph hirq hmask hs head start e d rem0 p o hv ho hres hadmd hadmp
  obtain ⟨es, hrep⟩ := repeatExec_headed hl hph hirq hmask hs
  have hslot : s.resolveSlot head.headerOpcode = some i := by
    obtain honly | hdrawn := hres
    · exact State.resolveSlot_of_only hv ho honly
    · exact hdrawn
  obtain ⟨fs, d', scratch, hrun⟩ := BodyRun.body
    (s := (s.headed start (g + 4 + 4 * k) g es).handlerResolve) (scratchBytes_pos hc) hslot (e := e) rfl
    (rem0 := rem0) rfl rfl rfl hadmd hadmp
  rw [State.streamAt_headed, State.streamAt_headed, Nat.add_zero] at hrun
  have hend := (hrep _).trans ((repeatExec_add hrun.inHandler 2).trans (repeatExec_completes rfl hslot))
  refine ⟨_, hend, State.port_setPort_self .., fun q hq => State.port_setPort_ne _ _ (Ne.symm hq), ?_,
    fun j hj => ?_, rfl, ?_⟩
  · exact (congrArg Slot.valid (State.slot_removeSlot _ i i)).trans (by rw [if_pos rfl]; rfl)
  · exact (State.slot_removeSlot _ i j).trans (if_neg (Ne.symm hj))
  · rw [Nat.add_assoc start, Nat.add_assoc start, ← List.drop_drop, ← Nat.add_assoc s.consumed, ← hslot]
    exact State.eq_of_idle rfl hl hph

end Sys2Proof.Machine
